-- ==== Sys2Proof/Word.lean ====
section
/-!
DEFINITION. The word types: a register is 32 bits (20_memory.md R80), a bus byte is 8 bits (30_encoding.md R123),
a register offset is 8 bits (20_memory.md R80).
-/

namespace Sys2Proof

/-- A host register, a command word, a value on the host port: 32 bits (R80, R81). -/
abbrev Word := BitVec 32

/-- A byte on the bus or in a byte buffer: 8 bits (R10, R123). -/
abbrev Byte := BitVec 8

/-- A byte offset on the host port: 8 bits (R80). -/
abbrev Offset := BitVec 8

end Sys2Proof
end

