-- ==== Sys2Proof/Config.lean ====
section
/-!
DEFINITION. What is fixed for a run and what the spec leaves open: the parameters of 00_scope.md R9, the outcome and
reply values of 30_encoding.md R116, and the free values an external bus endpoint draws (40_byte_transfer.md R154).
-/

namespace Sys2Proof

/-- The bus endpoint of a run (R9, D7). -/
inductive Endpoint
  | emulator
  | external
  deriving DecidableEq, Repr, Inhabited

/-- The open parameters of R9: arguments of the model, fixed for a run. State holds them in a field no step writes,
so a statement about every state is about every choice of them (assumption log 1). -/
structure Params where
  /-- ENDPOINT (D7). -/
  endpoint : Endpoint
  /-- BUS_AVAILABLE (D16). -/
  busAvailable : Bool
  /-- DELAY_BEGIN_MS (D30). -/
  delayBeginMs : Nat
  /-- DELAY_MEAS_MS (D30). -/
  delayMeasMs : Nat
  deriving DecidableEq, Repr

/-- The parameters State.reset takes. DESIGN CHOICE (assumption log 1, unsafe for statements about State.reset alone):
the start state of 95_test_vectors.md, with the delay lengths 0 and 100. -/
def Params.standard : Params where
  endpoint := .emulator
  busAvailable := true
  delayBeginMs := 0
  delayMeasMs := 100

/-- An acknowledgement outcome (R35, R116): 0 ACK, 1 NACK, 2 TERR. The code 3 is never produced (V7), so it is no value. -/
inductive AckOutcome
  | ack
  | nack
  | terr
  deriving DecidableEq, Repr, Inhabited

/-- The master's acknowledgement for a byte it receives (R111 ACKPOL, R116): 0 ACK, 1 NACK. -/
inductive AckPol
  | ack
  | nack
  deriving DecidableEq, Repr, Inhabited

/-- The endpoint's reply to a read request (R116): DELIVERED with a byte, or TERR with none. -/
inductive ReadReply
  | delivered (b : Byte)
  | terr
  deriving DecidableEq, Repr, Inhabited

/-- The n-th free draw of a written byte's reply from an external endpoint (R154). DESIGN CHOICE (assumption log 2, safe):
it has no body, so nothing constrains it. -/
opaque Config.freeWriteReply : Nat → AckOutcome

/-- The n-th free draw of a read request's reply from an external endpoint (R154). DESIGN CHOICE (assumption log 2, safe):
it has no body, so nothing constrains it. -/
opaque Config.freeReadReply : Nat → ReadReply

end Sys2Proof
end

