-- ==== Sys2Proof/Syntax.lean ====
section
/-!
DEFINITION. The whole syntax: one constructor of Instr per row of opcode_table.json, the registers of the host port,
the actions of the host and the lines of a host program (30_encoding.md R111, R112, R122, R124, R125; 10_state.md R32).
-/

namespace Sys2Proof

/-- The KIND operand of CONV (R111, R224): 0 humidity, 1 temperature. -/
inductive ConvKind
  | humidity
  | temperature
  deriving DecidableEq, Repr, Inhabited

/-- The instructions: twelve host commands (R112) and the four byte patterns the emulator decodes (R119, R122).
Every operand has exactly the values its field admits (R113). -/
inductive Instr
  /-- NOP (R280). -/
  | nop
  /-- START (R160). -/
  | start
  /-- STOP (R161). -/
  | stop
  /-- WRB VAL (R162). -/
  | wrb (val : Byte)
  /-- RDB ACKPOL (R163). -/
  | rdb (ackpol : AckPol)
  /-- FWR ADDR7, LEN (R184). -/
  | fwr (addr7 : BitVec 7) (len : BitVec 4)
  /-- FRD ADDR7, LEN (R185). -/
  | frd (addr7 : BitVec 7) (len : BitVec 4)
  /-- BEGIN (R203). -/
  | begin
  /-- MEASURE (R205). -/
  | measure
  /-- DECODE (R223). -/
  | decode
  /-- CONV KIND (R224). -/
  | conv (kind : ConvKind)
  /-- CLRERR (R281). -/
  | clrerr
  /-- EMU_ADDR_W: the write-address byte 0x70 (R243). -/
  | emuAddrW
  /-- EMU_ADDR_R: the read-address byte 0x71 (R243). -/
  | emuAddrR
  /-- EMU_CAL: the calibrate frame BE 08 00 (R251). -/
  | emuCal
  /-- EMU_TRIG: the trigger frame AC 33 00 (R252). -/
  | emuTrig
  deriving DecidableEq, Repr

/-- The three formats of opcode_table.json: a host command word (R110), an address byte (R122), a 3-byte frame whose
byte 0 is bits 23:16 (R119). -/
inductive CodeWord
  | cmd32 (w : Word)
  | addr8 (b : Byte)
  | cmd24 (w : BitVec 24)
  deriving DecidableEq, Repr

/-- The registers of the host port (R32). -/
inductive Reg
  | cmd
  | status
  | config
  | rxb
  | ahtStatus
  | rawIn
  | rawH
  | rawT
  | hum
  | temp
  | emuDbg
  | emuCmdbuf
  | data (i : Fin 16)
  | frame (i : Fin 6)
  deriving DecidableEq, Repr

/-- What the host can do to the block (R7, R8): the two host accesses (R81), the answer to a delay request (R200) and the
reset input (R320). -/
inductive HostAction
  | regRead (off : Offset)
  | regWrite (off : Offset) (v : Word)
  | answerDelay
  | reset
  deriving DecidableEq, Repr

/-- The register operand of a host program line: a name, or a raw offset `@<offset>` (R124). -/
inductive RegOperand
  | named (r : Reg)
  | raw (off : Offset)
  deriving DecidableEq, Repr

/-- A line of a host program (R124) and the pseudo-instructions (R125). -/
inductive HostLine
  | wr (r : RegOperand) (imm : Word)
  | rd (r : RegOperand)
  | command (i : Instr)
  | enable
  | loadD (bs : List Byte)
  | loadF (bs : List Byte)
  | send (addr7 : BitVec 7) (bs : List Byte)
  deriving DecidableEq, Repr

end Sys2Proof
end

