-- ==== Sys2Proof/WellFormed.lean ====
section
/-!
DEFINITION. What is well-formed: a code word by the match and mask of its row of the opcode table (30_encoding.md R112,
R114, R119, R122), and a host program line by the bounds of R124 and R125. The operands of Instr need no check: their
types hold exactly the values their fields admit (R113).
-/

namespace Sys2Proof

/-- One row of the opcode map of R112: a word v is the command when `v &&& mask = match`. -/
structure OpcodeRow where
  mnemonic : String
  matchBits : Word
  mask : Word
  deriving DecidableEq, Repr

/-- Whether a word is the row's command (R112). -/
def OpcodeRow.matches (r : OpcodeRow) (v : Word) : Bool := v &&& r.mask == r.matchBits

/-- The opcode map (R112). -/
def opcodeTable : List OpcodeRow :=
  [⟨"NOP", 0x00000000, 0xFFFFFFFF⟩, ⟨"START", 0x10000000, 0xFFFFFFFF⟩, ⟨"STOP", 0x20000000, 0xFFFFFFFF⟩,
   ⟨"WRB", 0x30000000, 0xFFFFFF00⟩, ⟨"RDB", 0x40000000, 0xFFFFFEFF⟩, ⟨"FWR", 0x50000000, 0xFF80FFF0⟩,
   ⟨"FRD", 0x60000000, 0xFF80FFF0⟩, ⟨"BEGIN", 0x70000000, 0xFFFFFFFF⟩, ⟨"MEASURE", 0x80000000, 0xFFFFFFFF⟩,
   ⟨"DECODE", 0x90000000, 0xFFFFFFFF⟩, ⟨"CONV", 0xA0000000, 0xFFFFFFFE⟩, ⟨"CLRERR", 0xB0000000, 0xFFFFFFFF⟩]

/-- A code word is well-formed when some row of the opcode table is its own (R112, R114 for a command word; R122 for an
address byte; R119 for a command frame). -/
def CodeWord.wellFormed : CodeWord → Bool
  | .cmd32 w => opcodeTable.any (·.matches w)
  | .addr8 b => b == 0x70 || b == 0x71
  | .cmd24 w => w == 0xBE0800 || w == 0xAC3300

/-- Whether an instruction is a host command, one of the mnemonics of R124. The emulator's byte patterns are not. -/
def Instr.isHostCommand : Instr → Bool
  | .nop | .start | .stop | .wrb _ | .rdb _ | .fwr _ _ | .frd _ _ => true
  | .begin | .measure | .decode | .conv _ | .clrerr => true
  | .emuAddrW | .emuAddrR | .emuCal | .emuTrig => false

/-- A host program line is well-formed: a command line holds a host command, LOADD loads at most 16 bytes, LOADF exactly 6,
SEND sends at most 15 (R124, R125). -/
def HostLine.wellFormed : HostLine → Bool
  | .wr _ _ | .rd _ | .enable => true
  | .command i => i.isHostCommand
  | .loadD bs => bs.length ≤ 16
  | .loadF bs => bs.length == 6
  | .send _ bs => bs.length ≤ 15

end Sys2Proof
end

