-- ==== Sys2Proof/Decode.lean ====
section
/-!
DEFINITION. The decoder, total on any bits and rejecting by name, and after it the encoder (30_encoding.md R110 to R123).
The block has two decoders: the command decoder of the host port (R115) and the emulator's recognition of address bytes
(R122) and command frames (R119, R250). The emulator of Machine/Emulator.lean uses the second one itself.
-/

namespace Sys2Proof

/-- Why a code word stands for no instruction. Each is the spec's own refusal, safe: the host port answers E_ILLEGAL_CMD,
the emulator takes the byte or frame as foreign or unrecognized. -/
inductive DecodeError
  /-- The opcode field is 0xC to 0xF (R114). -/
  | reservedOpcode
  /-- A bit outside the opcode's operand fields is 1 (R114). -/
  | operandBits
  /-- An address byte other than 0x70 and 0x71 (R122, R244). -/
  | foreignAddress
  /-- A 3-byte sequence that is neither CommandFrame (R253). -/
  | unrecognizedFrame
  deriving DecidableEq, Repr

/-- The field of `width` bits that begins at bit `lo` (R10). -/
def bitField {n : Nat} (v : BitVec n) (lo width : Nat) : BitVec width := v.extractLsb' lo width

/-- Accept the instruction if the bits outside its operand fields are all 0 (R110, R114). -/
def acceptIf (reservedZero : Bool) (i : Instr) : Except DecodeError Instr :=
  if reservedZero then .ok i else .error .operandBits

/-- The master's acknowledgement an ACKPOL bit names (R111). -/
def ackPolOfBit (b : Bool) : AckPol := if b then .nack else .ack

/-- The conversion a KIND bit names (R111). -/
def convKindOfBit (b : Bool) : ConvKind := if b then .temperature else .humidity

/-- The command decoder of the host port (R110 to R115). -/
def decodeCommand (v : Word) : Except DecodeError Instr :=
  match (bitField v 28 4).toNat with
  | 0x0 => acceptIf (bitField v 0 28 == 0) .nop
  | 0x1 => acceptIf (bitField v 0 28 == 0) .start
  | 0x2 => acceptIf (bitField v 0 28 == 0) .stop
  | 0x3 => acceptIf (bitField v 8 20 == 0) (.wrb (bitField v 0 8))
  | 0x4 => acceptIf (bitField v 9 19 == 0 && bitField v 0 8 == 0) (.rdb (ackPolOfBit (v.getLsbD 8)))
  | 0x5 => acceptIf (bitField v 23 5 == 0 && bitField v 4 12 == 0) (.fwr (bitField v 16 7) (bitField v 0 4))
  | 0x6 => acceptIf (bitField v 23 5 == 0 && bitField v 4 12 == 0) (.frd (bitField v 16 7) (bitField v 0 4))
  | 0x7 => acceptIf (bitField v 0 28 == 0) .begin
  | 0x8 => acceptIf (bitField v 0 28 == 0) .measure
  | 0x9 => acceptIf (bitField v 0 28 == 0) .decode
  | 0xA => acceptIf (bitField v 1 27 == 0) (.conv (convKindOfBit (v.getLsbD 0)))
  | 0xB => acceptIf (bitField v 0 28 == 0) .clrerr
  | _ => .error .reservedOpcode

/-- SLAVE_ADDR7 (R9). -/
def slaveAddr7 : BitVec 7 := 0x38

/-- ADDR_W, the framed write address of the slave (R9, R117). -/
def addrW : Byte := 0x70

/-- ADDR_R, the framed read address of the slave (R9, R117). -/
def addrR : Byte := 0x71

/-- CAL_CMD, the calibrate CommandFrame, byte 0 first (R9, R119). -/
def calCmd : List Byte := [0xBE, 0x08, 0x00]

/-- TRIG_CMD, the trigger-measurement CommandFrame, byte 0 first (R9, R119). -/
def trigCmd : List Byte := [0xAC, 0x33, 0x00]

/-- The emulator's classes of an address byte (R122). -/
inductive AddressClass
  | writeAddress
  | readAddress
  | foreign
  deriving DecidableEq, Repr

/-- The emulator's recognition of an address byte (R122). -/
def classifyAddress (b : Byte) : AddressClass :=
  if b = addrW then .writeAddress else if b = addrR then .readAddress else .foreign

/-- The emulator's classes of a completed 3-byte command (R250). -/
inductive FrameClass
  | calibrate
  | trigger
  | unrecognized
  deriving DecidableEq, Repr

/-- The emulator's byte-for-byte comparison of a completed command with the two CommandFrames (R250). -/
def classifyFrame (bs : List Byte) : FrameClass :=
  if bs = calCmd then .calibrate else if bs = trigCmd then .trigger else .unrecognized

/-- The three bytes of a 24-bit frame value, byte 0 first: byte 0 is bits 23:16 (R119). -/
def frameBytes (w : BitVec 24) : List Byte := [bitField w 16 8, bitField w 8 8, bitField w 0 8]

/-- The emulator's address byte as an instruction (R122, R243). -/
def decodeAddress (b : Byte) : Except DecodeError Instr :=
  match classifyAddress b with
  | .writeAddress => .ok .emuAddrW
  | .readAddress => .ok .emuAddrR
  | .foreign => .error .foreignAddress

/-- The emulator's 3-byte command as an instruction (R119, R250). -/
def decodeFrame (w : BitVec 24) : Except DecodeError Instr :=
  match classifyFrame (frameBytes w) with
  | .calibrate => .ok .emuCal
  | .trigger => .ok .emuTrig
  | .unrecognized => .error .unrecognizedFrame

/-- The decoder of all three formats. -/
def decode : CodeWord → Except DecodeError Instr
  | .cmd32 w => decodeCommand w
  | .addr8 b => decodeAddress b
  | .cmd24 w => decodeFrame w

/-- A command word from its opcode and its operand bits (R110). -/
def opWord (op : BitVec 4) (operands : Word) : Word := (op.setWidth 32 <<< 28) ||| operands

/-- The operand bits of FWR and FRD: ADDR7 in bits 22:16, LEN in bits 3:0 (R111). -/
def framedOperands (addr7 : BitVec 7) (len : BitVec 4) : Word := (addr7.setWidth 32 <<< 16) ||| len.setWidth 32

/-- The ACKPOL bit of RDB in place (R111). -/
def ackPolBits : AckPol → Word
  | .ack => 0x00000000
  | .nack => 0x00000100

/-- The KIND bit of CONV in place (R111). -/
def convKindBits : ConvKind → Word
  | .humidity => 0x00000000
  | .temperature => 0x00000001

/-- A 24-bit frame value from its bytes, byte 0 first (R119). -/
def frameValue (bs : List Byte) : BitVec 24 :=
  bs.foldl (fun acc b => (acc <<< 8) ||| b.setWidth 24) 0

/-- The encoder (R110 to R112, R117, R119). -/
def encode : Instr → CodeWord
  | .nop => .cmd32 (opWord 0x0 0)
  | .start => .cmd32 (opWord 0x1 0)
  | .stop => .cmd32 (opWord 0x2 0)
  | .wrb val => .cmd32 (opWord 0x3 (val.setWidth 32))
  | .rdb ackpol => .cmd32 (opWord 0x4 (ackPolBits ackpol))
  | .fwr addr7 len => .cmd32 (opWord 0x5 (framedOperands addr7 len))
  | .frd addr7 len => .cmd32 (opWord 0x6 (framedOperands addr7 len))
  | .begin => .cmd32 (opWord 0x7 0)
  | .measure => .cmd32 (opWord 0x8 0)
  | .decode => .cmd32 (opWord 0x9 0)
  | .conv kind => .cmd32 (opWord 0xA (convKindBits kind))
  | .clrerr => .cmd32 (opWord 0xB 0)
  | .emuAddrW => .addr8 addrW
  | .emuAddrR => .addr8 addrR
  | .emuCal => .cmd24 (frameValue calCmd)
  | .emuTrig => .cmd24 (frameValue trigCmd)

/-- The bits of a code word as one 32-bit number: for a host command, the word written to CMD. -/
def CodeWord.bits : CodeWord → Word
  | .cmd32 w => w
  | .addr8 b => b.setWidth 32
  | .cmd24 w => w.setWidth 32

/-- The word whose write to CMD issues a host command (R115, R125). -/
def commandWord (i : Instr) : Word := (encode i).bits

/-- The instruction the decoder reads from the `nbits` bits `w`, numbered as opcode_table.json numbers them: a 32-bit
command word, an 8-bit address byte, a 24-bit frame with byte 0 in bits 23:16 (R119; assumption log 15). -/
def decodeTableWord (nbits w : Nat) : Option Instr :=
  if w < 2 ^ nbits then
    match nbits with
    | 8 => (decode (.addr8 (BitVec.ofNat 8 w))).toOption
    | 24 => (decode (.cmd24 (BitVec.ofNat 24 w))).toOption
    | 32 => (decode (.cmd32 (BitVec.ofNat 32 w))).toOption
    | _ => none
  else none

end Sys2Proof
end

