-- ==== Sys2Proof/Machine/State.lean ====
section
/-!
DEFINITION. The state of the block as plain data (10_state.md), the reasons a step can stop, and the state after reset
(70_reset_and_hazards.md R320).
-/

namespace Sys2Proof.Machine

/-- Why the machine stops. -/
inductive Fault
  /-- Raised by `step` in a state whose BEGIN or MEASURE waits for a delay answer that never comes: the block hangs and
  accepts no further access (R200, R329; 93 U6 "stuck"). Safe: the hardware does nothing more either. -/
  | delayUnanswered
  deriving DecidableEq, Repr

/-- Why an instruction has no meaning. -/
inductive Refusal
  /-- An instruction not modelled yet, by its mnemonic. Raised by no arm of `exec`. Safe. -/
  | notModelled (mnemonic : String)
  deriving DecidableEq, Repr

/-- The error codes of the host port (R297). The codes 6 and 7 are never produced (V7), so they are no values. -/
inductive ErrorCode
  /-- E_ILLEGAL_CMD, code 1 (R294). -/
  | illegalCmd
  /-- E_BUS_UNCONFIGURED, code 2 (R295). -/
  | busUnconfigured
  /-- E_NOT_OPEN, code 3 (R296). -/
  | notOpen
  /-- E_UNMAPPED, code 4 (R292). -/
  | unmapped
  /-- E_READONLY, code 5 (R293). -/
  | readOnly
  deriving DecidableEq, Repr

/-- STATUS.AHT_RESULT (R34, R39). The codes 5 to 7 are never produced (V7), so they are no values. -/
inductive AhtResult
  | none
  | ok
  | notCalibrated
  | shortRead
  | transportAbsent
  deriving DecidableEq, Repr

/-- EMU_STATE (R52). -/
inductive EmuState
  | idle
  | receivingCommand
  | sendingData
  deriving DecidableEq, Repr

/-- The state of the slave emulator (R52 to R58). -/
structure Emulator where
  /-- EMU_STATE (R52). -/
  st : EmuState
  /-- AWAIT_ADDR (R53). -/
  awaitAddr : Bool
  /-- CMD_CNT, 0 to 3 (R54). -/
  cmdCnt : Fin 4
  /-- SEND_CNT, 0 to 6 (R55). -/
  sendCnt : Fin 7
  /-- CALIBRATED (R56). -/
  calibrated : Bool
  /-- MEAS_TRIGGERED (R57). -/
  measTriggered : Bool
  /-- CMD_BUF[0..2] (R58). -/
  cmdBuf : Vector Byte 3
  deriving DecidableEq, Repr

/-- The emulator after reset (R320). -/
def Emulator.reset : Emulator where
  st := .idle
  awaitAddr := false
  cmdCnt := 0
  sendCnt := 0
  calibrated := false
  measTriggered := false
  cmdBuf := #v[0, 0, 0]

/-- An entry of the event log (R60). A read that got no byte is logged with the reply TERR and no byte (R116). -/
inductive Event
  | start
  | stop
  | write (b : Byte) (reply : AckOutcome)
  | read (pol : AckPol) (reply : ReadReply)
  | delay (ms : Nat)
  | reset
  deriving DecidableEq, Repr

/-- What the host port answers to an access (R81, R291). -/
inductive AccessResult
  /-- A write that raised no error. -/
  | ok
  /-- A read that raised no error, with the value read. -/
  | value (v : Word)
  /-- An access that raised the error. -/
  | err (c : ErrorCode)
  deriving DecidableEq, Repr

/-- The draws of an EXTERNAL endpoint (R13, R154): the replies still to come, and, past their end, a counter of the free
draws of Config. A statement about every state is about every sequence of draws (assumption log 2). -/
structure Oracle where
  writeReplies : List AckOutcome
  readReplies : List ReadReply
  draws : Nat
  deriving DecidableEq, Repr

/-- The state of the machine. -/
structure State where
  /-- The parameters of the run (R9); no step writes them. -/
  params : Params
  /-- CMD (R33). -/
  cmd : Word
  /-- STATUS.OUTCOME (R34, R35). -/
  outcome : AckOutcome
  /-- STATUS.BUS_OPEN (R36). -/
  busOpen : Bool
  /-- STATUS.COUNT (R37). -/
  count : BitVec 4
  /-- STATUS.ERR (R38); `none` is code 0. -/
  err : Option ErrorCode
  /-- STATUS.AHT_RESULT (R39). -/
  ahtResult : AhtResult
  /-- STATUS.DCAL (R40). -/
  dcal : Bool
  /-- CONFIG.BUS_EN (R41). -/
  busEn : Bool
  /-- RXB bits 7:0 (R42). -/
  rxb : Byte
  /-- AHT_STATUS bits 7:0 (R43). -/
  ahtStatus : Byte
  /-- RAW_IN (R44). -/
  rawIn : Word
  /-- RAW_H bits 19:0 (R45). -/
  rawH : BitVec 20
  /-- RAW_T bits 19:0 (R45). -/
  rawT : BitVec 20
  /-- HUM (R48). -/
  hum : Word
  /-- TEMP (R49). -/
  temp : Word
  /-- DATA[0..15] bits 7:0 (R46). -/
  data : Vector Byte 16
  /-- FRAME[0..5] bits 7:0 (R47). -/
  frame : Vector Byte 6
  /-- The slave emulator (R52 to R58). -/
  emu : Emulator
  /-- The event log, oldest entry first (R60). -/
  log : List Event
  /-- The error record, oldest entry first (R61). -/
  errorRecord : List (ErrorCode × Offset)
  /-- The model's own: the host's actions still to come, in order (assumption log 3). -/
  host : List HostAction
  /-- The model's own: the host port's answer to the last access (assumption log 11). -/
  result : Option AccessResult
  /-- The model's own: whether the block waits for a delay answer that never comes (assumption log 4). -/
  hung : Bool
  /-- The model's own: the draws of an external endpoint (assumption log 2). -/
  oracle : Oracle
  deriving DecidableEq, Repr

/-- The state a run starts in with the given parameters (R320, R60, R61). The model's own fields are empty. -/
def State.resetWith (p : Params) : State where
  params := p
  cmd := 0
  outcome := .ack
  busOpen := false
  count := 0
  err := none
  ahtResult := .none
  dcal := false
  busEn := false
  rxb := 0
  ahtStatus := 0
  rawIn := 0
  rawH := 0
  rawT := 0
  hum := 0
  temp := 0
  data := #v[0, 0, 0, 0, 0, 0, 0, 0, 0, 0, 0, 0, 0, 0, 0, 0]
  frame := #v[0, 0, 0, 0, 0, 0]
  emu := Emulator.reset
  log := []
  errorRecord := []
  host := []
  result := none
  hung := false
  oracle := { writeReplies := [], readReplies := [], draws := 0 }

/-- The machine right after reset (R320), with the parameters of assumption log 1. -/
def State.reset : State := State.resetWith Params.standard

end Sys2Proof.Machine
end

