-- ==== Sys2Proof/Machine/Flags.lean ====
section
/-!
DEFINITION. The computations of the STATUS fields and the words that show them: the codes of OUTCOME, ERR and AHT_RESULT
(10_state.md R34; 30_encoding.md R116; 60_exceptions.md R297), the outcome of a read (40_byte_transfer.md R156), the
sticky ERR (R38), the result of BEGIN and MEASURE (42_aht20_protocol.md R203, R205), and STATUS, CONFIG, EMU_DBG and
EMU_CMDBUF as words (R34, R41, R50, R51).
-/

namespace Sys2Proof.Machine

/-- A flag as a bit of a register word. -/
def bitWord (b : Bool) : Word := if b then 1 else 0

/-- The code of an outcome (R116). -/
def outcomeCode : AckOutcome → Word
  | .ack => 0
  | .nack => 1
  | .terr => 2

/-- The code of STATUS.ERR (R297). -/
def errorCode : Option ErrorCode → Word
  | none => 0
  | some .illegalCmd => 1
  | some .busUnconfigured => 2
  | some .notOpen => 3
  | some .unmapped => 4
  | some .readOnly => 5

/-- The code of STATUS.AHT_RESULT (R34). -/
def ahtResultCode : AhtResult → Word
  | .none => 0
  | .ok => 1
  | .notCalibrated => 2
  | .shortRead => 3
  | .transportAbsent => 4

/-- The code of EMU_DBG.STATE (R50). -/
def emuStateCode : EmuState → Word
  | .idle => 0
  | .receivingCommand => 1
  | .sendingData => 2

/-- The outcome of a read transfer whose byte was delivered: the master's own acknowledgement (R156). -/
def outcomeOfPol : AckPol → AckOutcome
  | .ack => .ack
  | .nack => .nack

/-- The outcome of a read transfer (R156). -/
def readOutcome (pol : AckPol) : ReadReply → AckOutcome
  | .delivered _ => outcomeOfPol pol
  | .terr => .terr

/-- The acknowledgement the framer gives a byte when `more` bytes are wanted after it (R181). -/
def polFor (more : Nat) : AckPol := if more = 0 then .nack else .ack

/-- STATUS.ERR after an error: the first code is kept (R38, R291). -/
def firstError (old : Option ErrorCode) (c : ErrorCode) : Option ErrorCode :=
  match old with
  | none => some c
  | some d => some d

/-- STATUS.COUNT of a number of data bytes, at most 15 (R37). -/
def countField (n : Nat) : BitVec 4 := BitVec.ofNat 4 n

/-- The result of BEGIN from the status byte it read (R121, R203). -/
def beginResult (status : Byte) : AhtResult := if status.getLsbD 3 then .ok else .notCalibrated

/-- The result of MEASURE from its framed read (R205). -/
def measureResult (addrAcked : Bool) (received : Nat) : AhtResult :=
  if addrAcked = false then .transportAbsent else if received < 6 then .shortRead else .ok

/-- STATUS as a word (R34). -/
def statusWord (s : State) : Word :=
  outcomeCode s.outcome ||| (bitWord s.busOpen <<< 2) ||| (s.count.setWidth 32 <<< 4) ||| (errorCode s.err <<< 8)
    ||| (ahtResultCode s.ahtResult <<< 12) ||| (bitWord s.dcal <<< 16)

/-- CONFIG as a word (R41): AVAIL and ENDPOINT show the parameters. -/
def configWord (s : State) : Word :=
  bitWord s.busEn ||| (bitWord s.params.busAvailable <<< 1) ||| (bitWord (s.params.endpoint == .external) <<< 2)

/-- The emulator's state as EMU_DBG shows it (R50). -/
def emuDbgBits (e : Emulator) : Word :=
  emuStateCode e.st ||| (bitWord e.awaitAddr <<< 2) ||| (bitWord e.calibrated <<< 3) ||| (bitWord e.measTriggered <<< 4)
    ||| (BitVec.ofNat 32 e.cmdCnt.val <<< 8) ||| (BitVec.ofNat 32 e.sendCnt.val <<< 12)

/-- The emulator's command buffer as EMU_CMDBUF shows it (R51, R89). -/
def emuCmdbufBits (e : Emulator) : Word :=
  e.cmdBuf[0].setWidth 32 ||| (e.cmdBuf[1].setWidth 32 <<< 8) ||| (e.cmdBuf[2].setWidth 32 <<< 16)

/-- EMU_DBG as a word: 0 with an external endpoint (R50, R85). -/
def emuDbgWord (s : State) : Word :=
  match s.params.endpoint with
  | .emulator => emuDbgBits s.emu
  | .external => 0

/-- EMU_CMDBUF as a word: 0 with an external endpoint (R51, R85). -/
def emuCmdbufWord (s : State) : Word :=
  match s.params.endpoint with
  | .emulator => emuCmdbufBits s.emu
  | .external => 0

end Sys2Proof.Machine
end

