-- ==== Sys2Proof/Machine/Operands.lean ====
section
/-!
DEFINITION. The operand forms: the register an offset names and its access (10_state.md R32; 20_memory.md R82), the value
of a register (R85), the address byte (30_encoding.md R117), the bytes of DATA a framed write sends and the storing of
received bytes (41_transaction_framer.md R184, R185; 42_aht20_protocol.md R205).
-/

namespace Sys2Proof.Machine

/-- The offset of a register (R32). -/
def offsetOf : Reg → Offset
  | .cmd => 0x00
  | .status => 0x04
  | .config => 0x08
  | .rxb => 0x0C
  | .ahtStatus => 0x10
  | .rawIn => 0x14
  | .rawH => 0x18
  | .rawT => 0x1C
  | .hum => 0x20
  | .temp => 0x24
  | .emuDbg => 0x28
  | .emuCmdbuf => 0x2C
  | .data i => BitVec.ofNat 8 (0x40 + 4 * i.val)
  | .frame i => BitVec.ofNat 8 (0x80 + 4 * i.val)

/-- The register at word index `k` of the map, that is, at the offset 4 * k (R32). -/
def regAtIndex (k : Nat) : Option Reg :=
  match k with
  | 0 => some .cmd
  | 1 => some .status
  | 2 => some .config
  | 3 => some .rxb
  | 4 => some .ahtStatus
  | 5 => some .rawIn
  | 6 => some .rawH
  | 7 => some .rawT
  | 8 => some .hum
  | 9 => some .temp
  | 10 => some .emuDbg
  | 11 => some .emuCmdbuf
  | k =>
    if h : 16 ≤ k ∧ k < 32 then some (.data ⟨k - 16, by omega⟩)
    else if h : 32 ≤ k ∧ k < 38 then some (.frame ⟨k - 32, by omega⟩)
    else none

/-- The register an offset names, or none where it is misaligned or unmapped (R82, R83, R84). -/
def regAt (off : Offset) : Option Reg :=
  if off.toNat % 4 = 0 then regAtIndex (off.toNat / 4) else none

/-- Whether a host write of the register raises E_READONLY (R32, R293). -/
def isReadOnly : Reg → Bool
  | .status | .rxb | .ahtStatus | .rawH | .rawT | .hum | .temp | .emuDbg | .emuCmdbuf => true
  | .cmd | .config | .rawIn | .data _ | .frame _ => false

/-- The value a register reads (R85), its reserved bits 0. -/
def regValue (s : State) : Reg → Word
  | .cmd => s.cmd
  | .status => statusWord s
  | .config => configWord s
  | .rxb => s.rxb.setWidth 32
  | .ahtStatus => s.ahtStatus.setWidth 32
  | .rawIn => s.rawIn
  | .rawH => s.rawH.setWidth 32
  | .rawT => s.rawT.setWidth 32
  | .hum => s.hum
  | .temp => s.temp
  | .emuDbg => emuDbgWord s
  | .emuCmdbuf => emuCmdbufWord s
  | .data i => s.data[i].setWidth 32
  | .frame i => s.frame[i].setWidth 32

/-- The direction bit of an address byte (R117). -/
inductive Direction
  | write
  | read
  deriving DecidableEq, Repr

/-- The value of the direction bit (R117). -/
def Direction.bit : Direction → Byte
  | .write => 0
  | .read => 1

/-- The address byte `(addr7 << 1) | dir` (R117). -/
def addressByte (addr7 : BitVec 7) (dir : Direction) : Byte := (addr7.setWidth 8 <<< 1) ||| dir.bit

/-- The bytes DATA[0..len-1] a framed write sends (R184). -/
def dataBytes (s : State) (len : BitVec 4) : List Byte := s.data.toList.take len.toNat

/-- Store bytes at consecutive indexes from `k` on. -/
def storeFrom {n : Nat} (v : Vector Byte n) (k : Nat) : List Byte → Vector Byte n
  | [] => v
  | b :: bs => storeFrom (v.setIfInBounds k b) (k + 1) bs

/-- Store the received bytes at the indexes 0, 1, ... of a buffer and leave its other bytes as they are (R185, R205). -/
def storeBytes {n : Nat} (v : Vector Byte n) (bs : List Byte) : Vector Byte n := storeFrom v 0 bs

end Sys2Proof.Machine
end

