-- ==== Sys2Proof/Machine/Ops.lean ====
section
/-!
DEFINITION. The named operations every command is built of: the event log (10_state.md R60), the error response, which is
the block's only trap and has no return (60_exceptions.md R291, R301), the completion of a command (30_encoding.md R115),
the checks of R115, the draws of an external endpoint (40_byte_transfer.md R154), the host accesses to registers
(20_memory.md R85, R86) and the reset input (70_reset_and_hazards.md R320).
-/

namespace Sys2Proof.Machine

/-- `log(e)`: append an event to the event log (R13, R60). -/
def State.logEvent (s : State) (e : Event) : State := { s with log := s.log ++ [e] }

/-- `raise E_X` at an offset, the error response (R291): the first code is kept in ERR, the code and the offset go to the
error record, the access answers Err, and nothing else changes. There is no return from it: the host issues its next
access (R301). -/
def State.raise (s : State) (c : ErrorCode) (off : Offset) : State :=
  { s with
    err := firstError s.err c
    errorRecord := s.errorRecord ++ [(c, off)]
    result := some (.err c) }

/-- The end of a command that passed every check (R115): CMD holds its word and the access answers Ok. -/
def State.complete (s : State) (i : Instr) : State :=
  { s with cmd := commandWord i, result := some .ok }

/-- The state in which the block waits for a delay answer that never comes (R200, R329): the access does not return. -/
def State.hang (s : State) : State := { s with hung := true, result := none }

/-- The offset of CMD, which the errors of commands record (R294, R295, R296). -/
def cmdOffset : Offset := 0x00

/-- The second check of R115: a bus command with BUS_EN = 0 raises E_BUS_UNCONFIGURED (R295). -/
def requireBus (s : State) (run : State → Host.Outcome State Fault Refusal) : Host.Outcome State Fault Refusal :=
  if s.busEn then run s else .next (s.raise .busUnconfigured cmdOffset)

/-- The third check of R115: WRB and RDB with BUS_OPEN = 0 raise E_NOT_OPEN (R296). -/
def requireOpen (s : State) (run : State → Host.Outcome State Fault Refusal) : Host.Outcome State Fault Refusal :=
  if s.busOpen then run s else .next (s.raise .notOpen cmdOffset)

/-- One draw of a written byte's reply (R154): the next one the oracle holds, else a free one. -/
def Oracle.drawWrite (o : Oracle) : AckOutcome × Oracle :=
  match o.writeReplies with
  | r :: rs => (r, { o with writeReplies := rs })
  | [] => (Config.freeWriteReply o.draws, { o with draws := o.draws + 1 })

/-- One draw of a read request's reply (R154): the next one the oracle holds, else a free one. -/
def Oracle.drawRead (o : Oracle) : ReadReply × Oracle :=
  match o.readReplies with
  | r :: rs => (r, { o with readReplies := rs })
  | [] => (Config.freeReadReply o.draws, { o with draws := o.draws + 1 })

/-- RegRead (R85): the value of the register, or E_UNMAPPED. A read changes nothing but the port's answer (R87). -/
def State.regRead (s : State) (off : Offset) : State :=
  match regAt off with
  | none => s.raise .unmapped off
  | some r => { s with result := some (.value (regValue s r)) }

/-- The effect of a host write on a writable register other than CMD (R86). -/
def State.storeReg (s : State) (r : Reg) (v : Word) : State :=
  match r with
  | .config => { s with busEn := v.getLsbD 0 && s.params.busAvailable, result := some .ok }
  | .rawIn => { s with rawIn := v, result := some .ok }
  | .data i => { s with data := s.data.set i (bitField v 0 8), result := some .ok }
  | .frame i => { s with frame := s.frame.set i (bitField v 0 8), result := some .ok }
  | .cmd | .status | .rxb | .ahtStatus | .rawH | .rawT | .hum | .temp | .emuDbg | .emuCmdbuf => s

/-- The reset input (R320): every register of the master and the emulator takes its reset value and `Reset` is logged.
The error record stays (R61), and so do what is outside the block: the parameters, the host and the external endpoint. -/
def State.applyReset (s : State) : State :=
  { State.resetWith s.params with
    log := s.log ++ [.reset]
    errorRecord := s.errorRecord
    host := s.host
    oracle := s.oracle }

end Sys2Proof.Machine
end

