-- ==== Sys2Proof/Machine/Emulator.lean ====
section
/-!
DEFINITION. The slave emulator's reactions to the bus symbols (44_slave_emulator.md R240 to R257), and the meanings of the
four emulator rows of the opcode table: what the emulator does when that byte pattern reaches it (assumption log 7).
-/

namespace Sys2Proof.Machine

/-- What Start and Stop reset of the emulator, and AWAIT_ADDR as given (R240, R241). CALIBRATED and MEAS_TRIGGERED stay. -/
def Emulator.resetTransaction (e : Emulator) (await : Bool) : Emulator :=
  { e with st := .idle, cmdCnt := 0, sendCnt := 0, cmdBuf := #v[0, 0, 0], awaitAddr := await }

/-- Emu.OnStart (R240). -/
def Emulator.onStart (e : Emulator) : Emulator := e.resetTransaction true

/-- Emu.OnStop (R241). -/
def Emulator.onStop (e : Emulator) : Emulator := e.resetTransaction false

/-- The calibrate frame's effect (R251). -/
def Emulator.calibrate (e : Emulator) : Emulator := { e with calibrated := true }

/-- The trigger frame's effect (R252). -/
def Emulator.trigger (e : Emulator) : Emulator := if e.calibrated then { e with measTriggered := true } else e

/-- Evaluate, the reaction to a completed command (R250 to R253). -/
def Emulator.evaluate (e : Emulator) : Emulator :=
  match classifyFrame e.cmdBuf.toList with
  | .calibrate => e.calibrate
  | .trigger => e.trigger
  | .unrecognized => e

/-- The reaction to the address byte of a transaction (R242, R243, R244). -/
def Emulator.onAddress (e : Emulator) (b : Byte) : Emulator :=
  match classifyAddress b with
  | .writeAddress => { e with awaitAddr := false, cmdCnt := 0, st := .receivingCommand }
  | .readAddress => { e with awaitAddr := false, sendCnt := 0, st := .sendingData }
  | .foreign => { e with awaitAddr := false }

/-- The emulator with a command byte appended to its buffer (R245). -/
def Emulator.append (e : Emulator) (b : Byte) : Emulator :=
  { e with cmdBuf := e.cmdBuf.setIfInBounds e.cmdCnt.val b, cmdCnt := e.cmdCnt + 1 }

/-- The reaction to a command byte in ReceivingCommand (R245). The full buffer in ReceivingCommand is a state no run
reaches (R259); there the byte is ignored (assumption log 8). -/
def Emulator.onCommandByte (e : Emulator) (b : Byte) : Emulator :=
  if e.cmdCnt = 3 then e
  else if e.cmdCnt = 2 then { (e.append b).evaluate with st := .idle }
  else e.append b

/-- Emu.OnWrite (R242 to R246, R249): the reply is always ACK. -/
def Emulator.onWrite (e : Emulator) (b : Byte) : AckOutcome × Emulator :=
  if e.awaitAddr then (.ack, e.onAddress b)
  else
    match e.st with
    | .receivingCommand => (.ack, e.onCommandByte b)
    | .idle | .sendingData => (.ack, e)

/-- CANNED_FRAME (R9, D25). -/
def cannedFrame : Vector Byte 6 := #v[0x08, 0xAA, 0xAA, 0xAB, 0xBB, 0xBB]

/-- EXHAUSTED_BYTE (R9). -/
def exhaustedByte : Byte := 0xFF

/-- Emu.OnRead (R247, R248, R249, R254): the reply is always DELIVERED, and the master's acknowledgement is ignored. -/
def Emulator.onRead (e : Emulator) (_pol : AckPol) : ReadReply × Emulator :=
  match e.st with
  | .sendingData =>
    match cannedFrame[e.sendCnt.val]? with
    | some b =>
      (.delivered b, { e with sendCnt := e.sendCnt + 1, st := if e.sendCnt = 5 then .idle else .sendingData })
    | none => (.delivered exhaustedByte, e)
  | .idle | .receivingCommand => (.delivered exhaustedByte, e)

/-- The emulator after a sequence of written bytes (R242). -/
def Emulator.onWrites (e : Emulator) : List Byte → Emulator
  | [] => e
  | b :: bs => (e.onWrite b).2.onWrites bs

/-- Written bytes reach the emulator only where it is the endpoint (R59). -/
def State.feedEmulator (s : State) (bs : List Byte) : State :=
  match s.params.endpoint with
  | .emulator => { s with emu := s.emu.onWrites bs }
  | .external => s

/-- EMU_ADDR_W (R242, R243): the byte 0x70 reaches the emulator. -/
def execEmuAddrW (s : State) : Host.Outcome State Fault Refusal := .next (s.feedEmulator [addrW])

/-- EMU_ADDR_R (R242, R243): the byte 0x71 reaches the emulator. -/
def execEmuAddrR (s : State) : Host.Outcome State Fault Refusal := .next (s.feedEmulator [addrR])

/-- EMU_CAL (R245, R250, R251): the bytes BE 08 00 reach the emulator. -/
def execEmuCal (s : State) : Host.Outcome State Fault Refusal := .next (s.feedEmulator calCmd)

/-- EMU_TRIG (R245, R250, R252): the bytes AC 33 00 reach the emulator. -/
def execEmuTrig (s : State) : Host.Outcome State Fault Refusal := .next (s.feedEmulator trigCmd)

end Sys2Proof.Machine
end

