-- ==== Sys2Proof/Machine/ByteTransfer.lean ====
section
/-!
DEFINITION. ByteTransfer: the four bus port exchanges (40_byte_transfer.md R150 to R157) and the raw bus commands START,
STOP, WRB and RDB (R160 to R163).
-/

namespace Sys2Proof.Machine

/-- The emulator's reaction to a symbol with no reply, where the emulator is the endpoint (R150, R151). -/
def State.emuReact (s : State) (react : Emulator → Emulator) : State :=
  match s.params.endpoint with
  | .emulator => { s with emu := react s.emu }
  | .external => s

/-- BusStart (R150). -/
def State.busStart (s : State) : State := (s.logEvent .start).emuReact Emulator.onStart

/-- BusStop (R151). -/
def State.busStop (s : State) : State := (s.logEvent .stop).emuReact Emulator.onStop

/-- The endpoint's reply to a written byte (R152, R154). -/
def State.endpointWrite (s : State) (b : Byte) : AckOutcome × State :=
  match s.params.endpoint with
  | .emulator => ((s.emu.onWrite b).1, { s with emu := (s.emu.onWrite b).2 })
  | .external => (s.oracle.drawWrite.1, { s with oracle := s.oracle.drawWrite.2 })

/-- The endpoint's reply to a read request (R153, R154). -/
def State.endpointRead (s : State) (pol : AckPol) : ReadReply × State :=
  match s.params.endpoint with
  | .emulator => ((s.emu.onRead pol).1, { s with emu := (s.emu.onRead pol).2 })
  | .external => (s.oracle.drawRead.1, { s with oracle := s.oracle.drawRead.2 })

/-- BusWrite (R152): one Write exchange and nothing else (R157). -/
def State.busWrite (s : State) (b : Byte) : AckOutcome × State :=
  let (r, s') := s.endpointWrite b
  (r, s'.logEvent (.write b r))

/-- BusRead (R153): one Read exchange and nothing else (R157). -/
def State.busRead (s : State) (pol : AckPol) : ReadReply × State :=
  let (r, s') := s.endpointRead pol
  (r, s'.logEvent (.read pol r))

/-- RXB after a read transfer: only a delivered byte is stored (R42, R163). -/
def rxbAfter (old : Byte) : ReadReply → Byte
  | .delivered b => b
  | .terr => old

/-- START (R160). -/
def execStart (s : State) : Host.Outcome State Fault Refusal :=
  requireBus s fun s => .next (State.complete { s.busStart with busOpen := true } .start)

/-- STOP (R161). -/
def execStop (s : State) : Host.Outcome State Fault Refusal :=
  requireBus s fun s => .next (State.complete { s.busStop with busOpen := false } .stop)

/-- WRB (R162). -/
def execWrb (val : Byte) (s : State) : Host.Outcome State Fault Refusal :=
  requireBus s fun s => requireOpen s fun s =>
    let (r, s') := s.busWrite val
    .next (State.complete { s' with outcome := r } (.wrb val))

/-- RDB (R163): the outcome of a delivered byte is the master's own acknowledgement (R156). -/
def execRdb (ackpol : AckPol) (s : State) : Host.Outcome State Fault Refusal :=
  requireBus s fun s => requireOpen s fun s =>
    let (r, s') := s.busRead ackpol
    .next (State.complete { s' with rxb := rxbAfter s'.rxb r, outcome := readOutcome ackpol r } (.rdb ackpol))

end Sys2Proof.Machine
end

