-- ==== Sys2Proof/Machine/Framer.lean ====
section
/-!
DEFINITION. TransactionFramer: the framing procedures FrameWrite and FrameRead (41_transaction_framer.md R180 to R183,
R186) and the framed commands FWR and FRD (R184, R185).
-/

namespace Sys2Proof.Machine

/-- What FrameWrite returns (R180), with the state after it. -/
structure FramedWrite where
  outcome : AckOutcome
  count : Nat
  state : State
  deriving DecidableEq, Repr

/-- What FrameRead returns (R181), with the state after it. -/
structure FramedRead where
  outcome : AckOutcome
  bytes : List Byte
  addrAcked : Bool
  state : State
  deriving DecidableEq, Repr

/-- The data phase of a framed write: `sent` data bytes are ACKed already, the first byte that fails ends it (R180). -/
def writePhase (s : State) (sent : Nat) : List Byte → FramedWrite
  | [] => { outcome := .ack, count := sent, state := s }
  | b :: bs =>
    match s.busWrite b with
    | (.ack, s') => writePhase s' (sent + 1) bs
    | (r, s') => { outcome := r, count := sent, state := s' }

/-- FrameWrite (R180): Start, the address byte with the write direction, the data bytes until one fails, and on every path
one Stop (R182). -/
def frameWrite (s : State) (addr7 : BitVec 7) (bytes : List Byte) : FramedWrite :=
  match s.busStart.busWrite (addressByte addr7 .write) with
  | (.ack, s') =>
    let w := writePhase s' 0 bytes
    { w with state := w.state.busStop }
  | (r, s') => { outcome := r, count := 0, state := s'.busStop }

/-- The data phase of a framed read of `n` more bytes, those received so far in `out`: every byte is ACKed but the last,
which is NACKed, and a TERR ends it with the bytes kept (R181). -/
def readPhase (s : State) (out : List Byte) : Nat → FramedRead
  | 0 => { outcome := .ack, bytes := out, addrAcked := true, state := s }
  | n + 1 =>
    match s.busRead (polFor n) with
    | (.delivered b, s') => readPhase s' (out ++ [b]) n
    | (.terr, s') => { outcome := .terr, bytes := out, addrAcked := true, state := s' }

/-- FrameRead (R181): Start, the address byte with the read direction, `n` bytes unless one fails, and on every path one
Stop (R182). -/
def frameRead (s : State) (addr7 : BitVec 7) (n : Nat) : FramedRead :=
  match s.busStart.busWrite (addressByte addr7 .read) with
  | (.ack, s') =>
    let r := readPhase s' [] n
    { r with state := r.state.busStop }
  | (r, s') => { outcome := r, bytes := [], addrAcked := false, state := s'.busStop }

/-- FWR (R184). -/
def execFwr (addr7 : BitVec 7) (len : BitVec 4) (s : State) : Host.Outcome State Fault Refusal :=
  requireBus s fun s =>
    let w := frameWrite s addr7 (dataBytes s len)
    .next (State.complete { w.state with outcome := w.outcome, count := countField w.count, busOpen := false }
      (.fwr addr7 len))

/-- FRD (R185). -/
def execFrd (addr7 : BitVec 7) (len : BitVec 4) (s : State) : Host.Outcome State Fault Refusal :=
  requireBus s fun s =>
    let r := frameRead s addr7 len.toNat
    .next (State.complete
      { r.state with
        data := storeBytes r.state.data r.bytes
        outcome := r.outcome
        count := countField r.bytes.length
        busOpen := false }
      (.frd addr7 len))

end Sys2Proof.Machine
end

