-- ==== Sys2Proof/Machine/Aht20.lean ====
section
/-!
DEFINITION. AHT20Protocol: the delay handshake (42_aht20_protocol.md R200) and the commands BEGIN (R203) and MEASURE
(R205), built on the framing procedures alone (R202).
-/

namespace Sys2Proof.Machine

/-- What becomes of a delay request: the host answers it, or never does (R200, R329). -/
inductive DelayEnd
  | answered (s : State)
  | never (s : State)
  deriving DecidableEq, Repr

/-- HostDelay (R200): the request is logged and the block waits. The host answers exactly when the answer is its next
action; while the block waits no other action of the host can happen (assumption log 4). -/
def hostDelay (s : State) (ms : Nat) : DelayEnd :=
  match s.host with
  | .answerDelay :: rest => .answered { s.logEvent (.delay ms) with host := rest }
  | [] | .regRead _ :: _ | .regWrite _ _ :: _ | .reset :: _ => .never (s.logEvent (.delay ms))

/-- The STATUS fields a framed write of BEGIN or MEASURE leaves (R203, R205). -/
def FramedWrite.report (w : FramedWrite) : State :=
  { w.state with outcome := w.outcome, count := countField w.count, busOpen := false }

/-- The STATUS fields a framed read of BEGIN or MEASURE leaves (R203, R205). -/
def FramedRead.report (r : FramedRead) : State :=
  { r.state with outcome := r.outcome, count := countField r.bytes.length }

/-- BEGIN after its delay: the 1-byte status read (R203). -/
def beginStatusRead (s : State) : State :=
  let r := frameRead s slaveAddr7 1
  match r.outcome, r.bytes with
  | .ack, b :: _ => { r.report with ahtStatus := b, ahtResult := beginResult b }
  | _, _ => { r.report with ahtResult := .transportAbsent }

/-- BEGIN (R203). -/
def execBegin (s : State) : Host.Outcome State Fault Refusal :=
  requireBus s fun s =>
    let w := frameWrite s slaveAddr7 calCmd
    if w.outcome = .ack then
      match hostDelay w.report s.params.delayBeginMs with
      | .answered s' => .next ((beginStatusRead s').complete .begin)
      | .never s' => .next s'.hang
    else .next (State.complete { w.report with ahtResult := .transportAbsent } .begin)

/-- MEASURE after its delay: the 6-byte read into FRAME (R205). -/
def measureRead (s : State) : State :=
  let r := frameRead s slaveAddr7 6
  { r.report with
    frame := storeBytes r.state.frame r.bytes
    ahtResult := measureResult r.addrAcked r.bytes.length }

/-- MEASURE (R205). -/
def execMeasure (s : State) : Host.Outcome State Fault Refusal :=
  requireBus s fun s =>
    let w := frameWrite s slaveAddr7 trigCmd
    if w.outcome = .ack then
      match hostDelay w.report s.params.delayMeasMs with
      | .answered s' => .next ((measureRead s').complete .measure)
      | .never s' => .next s'.hang
    else .next (State.complete { w.report with ahtResult := .transportAbsent } .measure)

end Sys2Proof.Machine
end

