-- ==== Sys2Proof/Machine/Measurement.lean ====
section
/-!
DEFINITION. MeasurementDecoder: the extraction and conversion functions (43_measurement_decoder.md R220 to R222, R225 to
R229), the packing that inverts them (R231), and the commands DECODE (R223) and CONV (R224).
-/

namespace Sys2Proof.Machine

/-- RawH (R220). -/
def rawHOf (f : Vector Byte 6) : BitVec 20 :=
  (f[1].setWidth 20 <<< 12) ||| (f[2].setWidth 20 <<< 4) ||| (f[3].setWidth 20 >>> 4)

/-- RawT (R221). -/
def rawTOf (f : Vector Byte 6) : BitVec 20 :=
  ((f[3] &&& 0x0F).setWidth 20 <<< 16) ||| (f[4].setWidth 20 <<< 8) ||| f[5].setWidth 20

/-- Cal (R222). -/
def calOf (f : Vector Byte 6) : Bool := f[0].getLsbD 3

/-- ConvH (R225): the exact product, divided by 2^20. -/
def convH (r : Word) : Word := BitVec.ofNat 32 (r.toNat * 100 / 1048576)

/-- ConvT (R226): the exact product, divided by 2^20, then 50 subtracted, as 32-bit two's complement. -/
def convT (r : Word) : Word := BitVec.ofInt 32 ((r.toNat * 200 / 1048576 : Nat) - 50 : Int)

/-- Pack, the frame of a status byte and two raw values (R231). -/
def packFrame (status : Byte) (h t : BitVec 20) : Vector Byte 6 :=
  #v[status, bitField h 12 8, bitField h 4 8, ((bitField h 0 4).setWidth 8 <<< 4) ||| (bitField t 16 4).setWidth 8,
     bitField t 8 8, bitField t 0 8]

/-- DECODE (R223). -/
def execDecode (s : State) : Host.Outcome State Fault Refusal :=
  .next (State.complete
    { s with
      rawH := rawHOf s.frame
      rawT := rawTOf s.frame
      hum := convH ((rawHOf s.frame).setWidth 32)
      temp := convT ((rawTOf s.frame).setWidth 32)
      dcal := calOf s.frame }
    .decode)

/-- CONV (R224). -/
def execConv (kind : ConvKind) (s : State) : Host.Outcome State Fault Refusal :=
  match kind with
  | .humidity => .next (State.complete { s with hum := convH s.rawIn } (.conv .humidity))
  | .temperature => .next (State.complete { s with temp := convT s.rawIn } (.conv .temperature))

end Sys2Proof.Machine
end

