-- ==== Sys2Proof/Machine/System.lean ====
section
/-!
DEFINITION. The system commands NOP and CLRERR (46_system.md R280, R281).
-/

namespace Sys2Proof.Machine

/-- NOP (R280): only CMD is written. -/
def execNop (s : State) : Host.Outcome State Fault Refusal := .next (s.complete .nop)

/-- CLRERR (R281). The error record is not cleared (R61). -/
def execClrerr (s : State) : Host.Outcome State Fault Refusal := .next (State.complete { s with err := none } .clrerr)

end Sys2Proof.Machine
end

