-- ==== Sys2Proof/Machine/Dispatch.lean ====
section
/-!
DEFINITION. The dispatch of every instruction to its meaning.
-/

namespace Sys2Proof.Machine

def exec (i : Instr) (s : State) : Host.Outcome State Fault Refusal :=
  match i with
  | .nop => Sys2Proof.Machine.execNop s
  | .start => Sys2Proof.Machine.execStart s
  | .stop => Sys2Proof.Machine.execStop s
  | .wrb val => Sys2Proof.Machine.execWrb val s
  | .rdb ackpol => Sys2Proof.Machine.execRdb ackpol s
  | .fwr addr7 len => Sys2Proof.Machine.execFwr addr7 len s
  | .frd addr7 len => Sys2Proof.Machine.execFrd addr7 len s
  | .begin => Sys2Proof.Machine.execBegin s
  | .measure => Sys2Proof.Machine.execMeasure s
  | .decode => Sys2Proof.Machine.execDecode s
  | .conv kind => Sys2Proof.Machine.execConv kind s
  | .clrerr => Sys2Proof.Machine.execClrerr s
  | .emuAddrW => Sys2Proof.Machine.execEmuAddrW s
  | .emuAddrR => Sys2Proof.Machine.execEmuAddrR s
  | .emuCal => Sys2Proof.Machine.execEmuCal s
  | .emuTrig => Sys2Proof.Machine.execEmuTrig s

end Sys2Proof.Machine
end

