-- ==== Sys2Proof/Machine/HostPort.lean ====
section
/-!
DEFINITION. The host port: RegWrite with its checks (20_memory.md R86), the decode and dispatch of a write of CMD
(30_encoding.md R115), one action of the host (00_scope.md R8), the expansion of host program lines (R124, R125), and how
a table word is placed where the next step runs it.
-/

namespace Sys2Proof.Machine

/-- Execute(v), a write of CMD (R115): an illegal word raises E_ILLEGAL_CMD (R114, R294), every other word is executed. -/
def executeWord (s : State) (v : Word) : Host.Outcome State Fault Refusal :=
  match decode (.cmd32 v) with
  | .ok i => exec i s
  | .error _ => .next (s.raise .illegalCmd cmdOffset)

/-- RegWrite (R86), with the checks in the order of R300. -/
def regWrite (s : State) (off : Offset) (v : Word) : Host.Outcome State Fault Refusal :=
  match regAt off with
  | none => .next (s.raise .unmapped off)
  | some r =>
    if isReadOnly r then .next (s.raise .readOnly off)
    else if r = .cmd then executeWord s v
    else .next (s.storeReg r v)

/-- One action of the host (R8). A delay answer with no request pending changes nothing (assumption log 5). -/
def hostStep (s : State) : HostAction → Host.Outcome State Fault Refusal
  | .regRead off => .next (s.regRead off)
  | .regWrite off v => regWrite s off v
  | .answerDelay => .next s
  | .reset => .next s.applyReset

/-- The offset a register operand of a host program line stands for (R124). -/
def operandOffset : RegOperand → Offset
  | .named r => offsetOf r
  | .raw off => off

/-- A write of CMD that issues a host command (R125). -/
def issue (i : Instr) : HostAction := .regWrite cmdOffset (commandWord i)

/-- The writes that load bytes into consecutive 32-bit registers from an offset on (R125 LOADD, LOADF). -/
def loadActions (base : Nat) : List Byte → List HostAction
  | [] => []
  | b :: bs => .regWrite (BitVec.ofNat 8 base) (b.setWidth 32) :: loadActions (base + 4) bs

/-- The host accesses a host program line stands for (R124, R125). -/
def expandLine : HostLine → List HostAction
  | .wr r imm => [.regWrite (operandOffset r) imm]
  | .rd r => [.regRead (operandOffset r)]
  | .command i => [issue i]
  | .enable => [.regWrite (offsetOf .config) 1]
  | .loadD bs => loadActions 0x40 bs
  | .loadF bs => loadActions 0x80 bs
  | .send addr7 bs => loadActions 0x40 bs ++ [issue (.fwr addr7 (BitVec.ofNat 4 bs.length))]

/-- The state with a command word as the host's next write of CMD. -/
def State.queueCommand (s : State) (v : Word) : State :=
  { s with host := .regWrite cmdOffset v :: s.host, hung := false }

/-- The state with the emulator as the endpoint of an available and configured bus, which the emulator's byte patterns
need to reach it. -/
def State.withEmulatorBus (s : State) : State :=
  { s with params := { s.params with endpoint := .emulator, busAvailable := true }, busEn := true }

/-- The state in which the next step delivers the byte to the emulator as an address byte: a transaction is open, the
emulator awaits its address, and the host's next access is the WRB of that byte. -/
def State.queueAddressByte (s : State) (b : Byte) : State :=
  State.queueCommand { s.withEmulatorBus with busOpen := true, emu := s.emu.onStart } (commandWord (.wrb b))

/-- The state in which the next step delivers the three bytes to the emulator as a command frame: DATA holds them and the
host's next access is the FWR that sends them. -/
def State.queueFrame (s : State) (w : BitVec 24) : State :=
  State.queueCommand { s.withEmulatorBus with data := storeBytes s.data (frameBytes w) } (commandWord (.fwr slaveAddr7 3))

end Sys2Proof.Machine
end

