-- ==== Sys2Proof/Machine/Step.lean ====
section
/-!
DEFINITION. One step of the machine: one action of the host, with the whole command it issues (20_memory.md R88), and the
placing of a table word where the next step runs it.
-/

namespace Sys2Proof.Machine

/-- One step. A hung block does nothing more (R329). With no host action left the block waits (R321). Otherwise the next
action of the host happens, whole (R88). -/
def step (s : State) : Host.Outcome State Fault Refusal :=
  if s.hung then .fault .delayUnanswered
  else
    match s.host with
    | [] => .next s
    | a :: rest => hostStep { s with host := rest } a

/-- The state whose very next step runs the table word `w` of `nbits` bits (assumption log 3): a command word is the host's
next write of CMD, an address byte and a frame reach the emulator through the bus command that carries them. -/
def State.withFetchWord (s : State) (nbits w : Nat) : State :=
  if nbits = 8 then s.queueAddressByte (BitVec.ofNat 8 w)
  else if nbits = 24 then s.queueFrame (BitVec.ofNat 24 w)
  else s.queueCommand (BitVec.ofNat 32 w)

end Sys2Proof.Machine
end

