-- ==== Sys2Proof/Safety.lean ====
section
/-!
DEFINITION. What claims are stated in terms of: the invariants of reachable states (44_slave_emulator.md R259;
10_state.md R33, R36, R38, R41, R59), the reading of the event log, and "no error was raised" (R61).
-/

namespace Sys2Proof.Machine

/-- The invariants of the emulator (R259). -/
structure Emulator.Inv (e : Emulator) : Prop where
  await_idle : e.awaitAddr = true → e.st = .idle ∧ e.cmdCnt = 0 ∧ e.sendCnt = 0
  receiving_open : e.st = .receivingCommand → e.cmdCnt.val ≤ 2
  sending_open : e.st = .sendingData → e.sendCnt.val ≤ 5
  triggered_calibrated : e.measTriggered = true → e.calibrated = true

/-- The emulator's reaction to a logged exchange: the logged symbols of the bus, and the reset that makes it anew (R240,
R241, R242, R247, R248, R320). -/
def Emulator.react (e : Emulator) : Event → Emulator
  | .start => e.onStart
  | .stop => e.onStop
  | .write b _ => (e.onWrite b).2
  | .read pol _ => (e.onRead pol).2
  | .delay _ => e
  | .reset => Emulator.reset

/-- The emulator that has seen exactly the exchanges of a log, from its reset state on. -/
def Emulator.replay (log : List Event) : Emulator := log.foldl Emulator.react Emulator.reset

/-- Whether a log ends with a Start not yet followed by a Stop or a reset (R36, R322). -/
def openAfter (isOpen : Bool) : Event → Bool
  | .start => true
  | .stop => false
  | .reset => false
  | .write _ _ => isOpen
  | .read _ _ => isOpen
  | .delay _ => isOpen

/-- STATUS.BUS_OPEN as the log shows it (R36, R322). -/
def busOpenOf (log : List Event) : Bool := log.foldl openAfter false

/-- A reply the emulator never gives: NACK or TERR to a written byte, TERR to a read request (R249). -/
def Event.isFailure : Event → Bool
  | .write _ r => r != .ack
  | .read _ r => r == .terr
  | .start | .stop | .delay _ | .reset => false

/-- The invariant of reachable states: R259 for the emulator; BUS_EN only with AVAIL (R41); CMD holds a legal word (R33);
ERR is the code of a recorded error (R38, R61); BUS_OPEN is what the log shows (R36). -/
structure State.Inv (s : State) : Prop where
  emulator : s.emu.Inv
  bus_available : s.busEn = true → s.params.busAvailable = true
  cmd_legal : (CodeWord.cmd32 s.cmd).wellFormed = true
  err_recorded : ∀ c, s.err = some c → ∃ off, (c, off) ∈ s.errorRecord
  bus_open : s.busOpen = busOpenOf s.log

/-- The emulator is a function of the bus traffic: as the endpoint it is in the state the log's exchanges put it in, and
otherwise it stays at its reset state (R59, R60). -/
def State.EmulatorFollowsLog (s : State) : Prop :=
  s.emu = match s.params.endpoint with
    | .emulator => Emulator.replay s.log
    | .external => Emulator.reset

/-- No error was raised in the whole run (R61). -/
def State.NoError (s : State) : Prop := s.errorRecord = []

/-- The state an outcome goes on with, if it goes on. -/
def nextOf : Host.Outcome State Fault Refusal → Option State
  | .next s => some s
  | .fault _ => none
  | .refused _ => none

end Sys2Proof.Machine
end

