-- ==== Sys2Proof/Certificates/Slice0/Obligations.lean ====
section
/-!
DEFINITION. The statements for the provers. Each docstring names the rule of spec/ it formalises. A statement about every
state is about every choice of the parameters (assumption log 1) and of the endpoint's draws (assumption log 2).
-/

open Sys2Proof Sys2Proof.Machine

/-! ### Helpers of the statements -/

/-- The state after the error response to an access (R291), written out. -/
def Sys2Proof.Machine.errorResponse (s : State) (c : ErrorCode) (off : Offset) : State :=
  { s with
    err := if s.err = none then some c else s.err
    errorRecord := s.errorRecord ++ [(c, off)]
    result := some (.err c) }

/-- A write of CMD of an illegal word: E_ILLEGAL_CMD at offset 0x00 and nothing else (R294). -/
def Sys2Proof.Machine.RefusesWord (s : State) (v : Word) : Prop :=
  regWrite s 0x00 v = .next (errorResponse s .illegalCmd 0x00)

/-- A command that needs the bus raises E_BUS_UNCONFIGURED with BUS_EN = 0 (R295). -/
def Sys2Proof.Machine.NeedsBus (i : Instr) (s : State) : Prop :=
  s.busEn = false → exec i s = .next (errorResponse s .busUnconfigured 0x00)

/-- A command that needs an open transaction raises E_NOT_OPEN with BUS_OPEN = 0 (R296). -/
def Sys2Proof.Machine.NeedsOpen (i : Instr) (s : State) : Prop :=
  s.busEn = true → s.busOpen = false → exec i s = .next (errorResponse s .notOpen 0x00)

/-- The commands that need CONFIG.BUS_EN = 1 (R295). -/
def Sys2Proof.Instr.usesBus : Instr → Bool
  | .start | .stop | .wrb _ | .rdb _ | .fwr _ _ | .frd _ _ | .begin | .measure => true
  | .nop | .decode | .conv _ | .clrerr | .emuAddrW | .emuAddrR | .emuCal | .emuTrig => false

/-- The commands that need STATUS.BUS_OPEN = 1 (R296). -/
def Sys2Proof.Instr.usesOpenTransaction : Instr → Bool
  | .wrb _ | .rdb _ => true
  | .nop | .start | .stop | .fwr _ _ | .frd _ _ | .begin | .measure | .decode | .conv _ | .clrerr | .emuAddrW | .emuAddrR
  | .emuCal | .emuTrig => false

/-- A host command that passes the checks of R115 in a state: each check asked only of the commands it is about. -/
abbrev Sys2Proof.Machine.PassesChecks (i : Instr) (s : State) : Prop :=
  i.isHostCommand = true ∧ (i.usesBus = true → s.busEn = true) ∧ (i.usesOpenTransaction = true → s.busOpen = true)

/-- An emulator whose transaction has just ended or begun, its sensor flags as they were (R240, R241). -/
def Sys2Proof.Machine.betweenBytes (e : Emulator) (await : Bool) : Emulator :=
  { e with st := .idle, awaitAddr := await, cmdCnt := 0, sendCnt := 0, cmdBuf := #v[0, 0, 0] }

/-- The acknowledgement the master gives byte `i` of a framed read of `n` bytes (R181). -/
def Sys2Proof.Machine.ackOfByte (n i : Nat) : AckPol := if i + 1 = n then .nack else .ack

/-- The log of the bytes a framed read of `n` bytes received (R181). -/
def Sys2Proof.Machine.readEvents (n : Nat) (bs : List Byte) : List Event :=
  bs.zipIdx.map fun p => .read (ackOfByte n p.2) (.delivered p.1)

/-- The oracle with the replies that are left (R154). -/
def Sys2Proof.Machine.State.left (s : State) (w : List AckOutcome) (r : List ReadReply) : Oracle :=
  { s.oracle with writeReplies := w, readReplies := r }

/-! ### Encoding (30_encoding.md) -/

/-- Decode and encode agree on every code word and every instruction, with every operand at every value: a word decodes to
an instruction exactly when it is that instruction's encoding (30_encoding.md R110 to R114, R119, R122). -/
def Obligations.DecodeAndEncodeAgree : Prop :=
  ∀ (w : CodeWord) (i : Instr), decode w = .ok i ↔ encode i = w

/-- R114, R294: a word with opcode 0xC to 0xF, or that matches no row of R112 by its mask, is illegal and a write of it to
CMD raises E_ILLEGAL_CMD, code 1, at offset 0x00 with no other effect; every other word matches exactly one row, and its
write runs a command. -/
def Obligations.IllegalWordsAreThoseOutsideTheOpcodeMap : Prop :=
  ∀ (s : State) (v : Word),
    ((12 ≤ (v.extractLsb' 28 4).toNat ∨ ∀ r ∈ opcodeTable, v &&& r.mask ≠ r.matchBits) → RefusesWord s v) ∧
    ((∃ r ∈ opcodeTable, v &&& r.mask = r.matchBits) →
      (∃ r ∈ opcodeTable, v &&& r.mask = r.matchBits ∧
        ∀ r' ∈ opcodeTable, v &&& r'.mask = r'.matchBits → r' = r) ∧
      ∃ i, i.isHostCommand = true ∧ decode (.cmd32 v) = .ok i ∧ regWrite s 0x00 v = exec i s) ∧
    errorCode (some .illegalCmd) = 1

/-- Words written out from R112, R122 and R119 decode to the instructions they stand for. -/
def Obligations.WrittenOutWordsDecode : Prop :=
  decode (.cmd32 0x00000000) = .ok .nop ∧ decode (.cmd32 0x10000000) = .ok .start ∧
  decode (.cmd32 0x20000000) = .ok .stop ∧ decode (.cmd32 0x30000070) = .ok (.wrb 0x70) ∧
  decode (.cmd32 0x40000100) = .ok (.rdb .nack) ∧ decode (.cmd32 0x50380003) = .ok (.fwr 0x38 3) ∧
  decode (.cmd32 0x60380006) = .ok (.frd 0x38 6) ∧ decode (.cmd32 0x70000000) = .ok .begin ∧
  decode (.cmd32 0x80000000) = .ok .measure ∧ decode (.cmd32 0x90000000) = .ok .decode ∧
  decode (.cmd32 0xA0000001) = .ok (.conv .temperature) ∧ decode (.cmd32 0xB0000000) = .ok .clrerr ∧
  decode (.addr8 0x70) = .ok .emuAddrW ∧ decode (.addr8 0x71) = .ok .emuAddrR ∧
  decode (.cmd24 0xBE0800) = .ok .emuCal ∧ decode (.cmd24 0xAC3300) = .ok .emuTrig

/-! ### The host port (10_state.md, 20_memory.md) -/

/-- R82: which offsets name a register; each register is named by exactly one offset, and which one, as the register map of
R32 lists them. -/
def Obligations.OffsetsThatNameARegister : Prop :=
  ∀ off : Offset,
    ((∃ r, regAt off = some r) ↔
      off.toNat % 4 = 0 ∧ (off.toNat ≤ 0x2C ∨ (0x40 ≤ off.toNat ∧ off.toNat ≤ 0x7C) ∨
        (0x80 ≤ off.toNat ∧ off.toNat ≤ 0x94))) ∧
    (∀ r, regAt off = some r ↔ offsetOf r = off) ∧
    regAt 0x00 = some .cmd ∧ regAt 0x04 = some .status ∧ regAt 0x08 = some .config ∧ regAt 0x0C = some .rxb ∧
    regAt 0x10 = some .ahtStatus ∧ regAt 0x14 = some .rawIn ∧ regAt 0x18 = some .rawH ∧ regAt 0x1C = some .rawT ∧
    regAt 0x20 = some .hum ∧ regAt 0x24 = some .temp ∧ regAt 0x28 = some .emuDbg ∧ regAt 0x2C = some .emuCmdbuf ∧
    (∀ i : Fin 16, regAt (BitVec.ofNat 8 (0x40 + 4 * i.val)) = some (.data i)) ∧
    ∀ i : Fin 6, regAt (BitVec.ofNat 8 (0x80 + 4 * i.val)) = some (.frame i)

/-- R83, R84, R292: a read or a write at a misaligned offset, at 0x30 to 0x3C or at 0x98 and above (FRAME[6] and FRAME[7]
among them) raises E_UNMAPPED, code 4, records the offset and returns no value. -/
def Obligations.AccessOutsideTheMapRaisesUnmapped : Prop :=
  ∀ (s : State) (rest : List HostAction) (off : Offset) (v : Word),
    s.hung = false →
    (off.toNat % 4 ≠ 0 ∨ (0x30 ≤ off.toNat ∧ off.toNat ≤ 0x3C) ∨ 0x98 ≤ off.toNat) →
    step { s with host := .regRead off :: rest } = .next (errorResponse { s with host := rest } .unmapped off) ∧
    step { s with host := .regWrite off v :: rest } = .next (errorResponse { s with host := rest } .unmapped off) ∧
    errorCode (some .unmapped) = 4

/-- R85: a read of a register answers its value, its reserved bits 0, and changes nothing but the port's answer; the
emulator's two views read 0 with an external endpoint; an unmapped offset raises E_UNMAPPED. (The words of STATUS, CONFIG,
EMU_DBG and EMU_CMDBUF are stated field by field in the statements after this one.) -/
def Obligations.ReadAnswersTheRegisterAndChangesNothing : Prop :=
  ∀ (s : State) (rest : List HostAction) (off : Offset),
    s.hung = false →
    (regAt off = none →
      step { s with host := .regRead off :: rest } = .next (errorResponse { s with host := rest } .unmapped off)) ∧
    (∀ r, regAt off = some r → ∃ v,
      step { s with host := .regRead off :: rest } = .next { s with host := rest, result := some (.value v) } ∧
      v = match r with
        | .cmd => s.cmd
        | .status => statusWord s
        | .config => configWord s
        | .rxb => s.rxb.setWidth 32
        | .ahtStatus => s.ahtStatus.setWidth 32
        | .rawIn => s.rawIn
        | .rawH => s.rawH.setWidth 32
        | .rawT => s.rawT.setWidth 32
        | .hum => s.hum
        | .temp => s.temp
        | .emuDbg => if s.params.endpoint = .external then 0 else emuDbgBits s.emu
        | .emuCmdbuf => if s.params.endpoint = .external then 0 else emuCmdbufBits s.emu
        | .data i => s.data[i].setWidth 32
        | .frame i => s.frame[i].setWidth 32)

/-- R34: the layout of STATUS, each field with its codes and the reserved bits 0. -/
def Obligations.StatusShowsItsFields : Prop :=
  ∀ s : State,
    (statusWord s).extractLsb' 0 2 = (match s.outcome with | .ack => 0 | .nack => 1 | .terr => 2) ∧
    (statusWord s).getLsbD 2 = s.busOpen ∧
    (statusWord s).getLsbD 3 = false ∧
    (statusWord s).extractLsb' 4 4 = s.count ∧
    (statusWord s).extractLsb' 8 3 = (match s.err with
      | none => 0 | some .illegalCmd => 1 | some .busUnconfigured => 2 | some .notOpen => 3 | some .unmapped => 4
      | some .readOnly => 5) ∧
    (statusWord s).getLsbD 11 = false ∧
    (statusWord s).extractLsb' 12 3 = (match s.ahtResult with
      | .none => 0 | .ok => 1 | .notCalibrated => 2 | .shortRead => 3 | .transportAbsent => 4) ∧
    (statusWord s).getLsbD 15 = false ∧
    (statusWord s).getLsbD 16 = s.dcal ∧
    (statusWord s).extractLsb' 17 15 = 0

/-- R41: the layout of CONFIG, what a write of it does, and its reset value. -/
def Obligations.ConfigShowsAndTakesBusEnable : Prop :=
  ∀ (s : State) (v : Word) (p : Params),
    (configWord s).getLsbD 0 = s.busEn ∧
    (configWord s).getLsbD 1 = s.params.busAvailable ∧
    ((configWord s).getLsbD 2 = true ↔ s.params.endpoint = .external) ∧
    (configWord s).extractLsb' 3 29 = 0 ∧
    regWrite s 0x08 v = .next { s with busEn := v.getLsbD 0 && s.params.busAvailable, result := some .ok } ∧
    (State.resetWith p).busEn = false ∧ (State.resetWith p).params = p

/-- R50, R51: the layout of EMU_DBG and EMU_CMDBUF, and 0 with an external endpoint. -/
def Obligations.EmulatorViewsShowTheEmulator : Prop :=
  ∀ s : State,
    (s.params.endpoint = .emulator →
      (emuDbgWord s).extractLsb' 0 2 =
        (match s.emu.st with | .idle => 0 | .receivingCommand => 1 | .sendingData => 2) ∧
      (emuDbgWord s).getLsbD 2 = s.emu.awaitAddr ∧
      (emuDbgWord s).getLsbD 3 = s.emu.calibrated ∧
      (emuDbgWord s).getLsbD 4 = s.emu.measTriggered ∧
      (emuDbgWord s).extractLsb' 5 3 = 0 ∧
      ((emuDbgWord s).extractLsb' 8 2).toNat = s.emu.cmdCnt.val ∧
      (emuDbgWord s).extractLsb' 10 2 = 0 ∧
      ((emuDbgWord s).extractLsb' 12 3).toNat = s.emu.sendCnt.val ∧
      (emuDbgWord s).extractLsb' 15 17 = 0 ∧
      (emuCmdbufWord s).extractLsb' 0 8 = s.emu.cmdBuf[0] ∧
      (emuCmdbufWord s).extractLsb' 8 8 = s.emu.cmdBuf[1] ∧
      (emuCmdbufWord s).extractLsb' 16 8 = s.emu.cmdBuf[2] ∧
      (emuCmdbufWord s).extractLsb' 24 8 = 0) ∧
    (s.params.endpoint = .external → emuDbgWord s = 0 ∧ emuCmdbufWord s = 0) ∧
    ∀ p, emuDbgWord (State.resetWith p) = 0 ∧ emuCmdbufWord (State.resetWith p) = 0

/-- R293: a write to each of the nine read-only registers raises E_READONLY, code 5, and records its offset; a write to CONFIG
raises no error whatever bits it sets. -/
def Obligations.WriteOfReadOnlyRegisterRaisesReadOnly : Prop :=
  ∀ (s : State) (v : Word),
    (∀ r ∈ [Reg.status, .rxb, .ahtStatus, .rawH, .rawT, .hum, .temp, .emuDbg, .emuCmdbuf],
      regWrite s (offsetOf r) v = .next (errorResponse s .readOnly (offsetOf r))) ∧
    errorCode (some .readOnly) = 5 ∧
    ∃ t, regWrite s (offsetOf .config) v = .next t ∧ t.result = some .ok ∧ t.err = s.err ∧
      t.errorRecord = s.errorRecord

/-- R86: a host write, by its offset: unmapped, read-only, a write of CMD (executed, or refused where it decodes to no
instruction), CONFIG, RAW_IN, DATA[i], FRAME[i]; a buffer write stores into that register alone, which then reads back what
it holds, bits 31:8 of a byte register 0. -/
def Obligations.HostWriteByItsOffset : Prop :=
  ∀ (s : State) (v : Word),
    (∀ off, regAt off = none → regWrite s off v = .next (errorResponse s .unmapped off)) ∧
    (∀ r ∈ [Reg.status, .rxb, .ahtStatus, .rawH, .rawT, .hum, .temp, .emuDbg, .emuCmdbuf],
      regWrite s (offsetOf r) v = .next (errorResponse s .readOnly (offsetOf r))) ∧
    (∀ i, decode (.cmd32 v) = .ok i → regWrite s 0x00 v = exec i s) ∧
    ((∀ i, decode (.cmd32 v) ≠ .ok i) → regWrite s 0x00 v = .next (errorResponse s .illegalCmd 0x00)) ∧
    regWrite s 0x08 v = .next { s with busEn := v.getLsbD 0 && s.params.busAvailable, result := some .ok } ∧
    regWrite s 0x14 v = .next { s with rawIn := v, result := some .ok } ∧
    (∀ i : Fin 16, ∃ t, regWrite s (BitVec.ofNat 8 (0x40 + 4 * i.val)) v = .next t ∧
      t = { s with data := t.data, result := some .ok } ∧
      (∀ j : Fin 16, t.data[j] = if j = i then v.extractLsb' 0 8 else s.data[j]) ∧
      regValue t (.data i) = (v.extractLsb' 0 8).setWidth 32) ∧
    ∀ i : Fin 6, ∃ t, regWrite s (BitVec.ofNat 8 (0x80 + 4 * i.val)) v = .next t ∧
      t = { s with frame := t.frame, result := some .ok } ∧
      (∀ j : Fin 6, t.frame[j] = if j = i then v.extractLsb' 0 8 else s.frame[j]) ∧
      regValue t (.frame i) = (v.extractLsb' 0 8).setWidth 32

/-! ### Errors (60_exceptions.md) -/

/-- R291, R38: an access that answers Err changes nothing else: the first error code is kept, the code and the offset of
the access are recorded, no register, no emulator state, no log entry and no CMD changes. -/
def Obligations.ErrorsArePrecise : Prop :=
  ∀ (s t : State) (rest : List HostAction) (off : Offset) (v : Word) (c : ErrorCode),
    s.hung = false → (s.host = .regRead off :: rest ∨ s.host = .regWrite off v :: rest) →
    step s = .next t → t.result = some (.err c) →
    t = errorResponse { s with host := rest } c off

/-- R300: the priority of the errors of one access. -/
def Obligations.ErrorPriority : Prop :=
  ∀ (s : State) (off : Offset) (v : Word),
    (regAt off = none → regWrite s off v = .next (errorResponse s .unmapped off)) ∧
    (∀ r, regAt off = some r → isReadOnly r = true → regWrite s off v = .next (errorResponse s .readOnly off)) ∧
    ((∀ i, decode (.cmd32 v) ≠ .ok i) → regWrite s 0x00 v = .next (errorResponse s .illegalCmd 0x00)) ∧
    (∀ i, decode (.cmd32 v) = .ok i → s.busEn = false →
      (i ∈ [.start, .stop, .begin, .measure] ∨ (∃ b, i = .wrb b) ∨ (∃ p, i = .rdb p) ∨ (∃ a n, i = .fwr a n) ∨
        ∃ a n, i = .frd a n) →
      regWrite s 0x00 v = .next (errorResponse s .busUnconfigured 0x00)) ∧
    (∀ i, decode (.cmd32 v) = .ok i → s.busEn = true → s.busOpen = false → ((∃ b, i = .wrb b) ∨ ∃ p, i = .rdb p) →
      regWrite s 0x00 v = .next (errorResponse s .notOpen 0x00)) ∧
    (s.busEn = false → regWrite s 0x00 0x30000170 = .next (errorResponse s .illegalCmd 0x00))

/-- R61: the error record begins empty; a step leaves it as it is or appends the error its access answers; every access that
answers Err appends its code and offset; nothing clears it, not CLRERR and not reset. -/
def Obligations.ErrorRecordIsNeverCleared : Prop :=
  (∀ p, (State.resetWith p).errorRecord = []) ∧
  (∀ s t : State, step s = .next t →
    t.errorRecord = s.errorRecord ∨
      ∃ c off, t.errorRecord = s.errorRecord ++ [(c, off)] ∧ t.result = some (.err c)) ∧
  ∀ (s t : State) (rest : List HostAction) (off : Offset) (v : Word) (c : ErrorCode),
    s.hung = false → (s.host = .regRead off :: rest ∨ s.host = .regWrite off v :: rest) →
    step s = .next t → t.result = some (.err c) → t.errorRecord = s.errorRecord ++ [(c, off)]

/-- R290: a protocol failure is no error. A host command that passed its checks never answers Err, whatever the endpoint
replies: it answers Ok, or it is a BEGIN or MEASURE that hangs in its delay (assumption log 4), and it leaves the error
record, and ERR unless it is CLRERR. And every access that does not answer Err leaves the error record as it is, and ERR as it
is unless it is CLRERR. -/
def Obligations.ProtocolFailuresAreNoErrors : Prop :=
  (∀ (i : Instr) (s t : State), PassesChecks i s → exec i s = .next t →
    (t.result = some .ok ∨ (t.result = none ∧ t.hung = true ∧ (i = .begin ∨ i = .measure))) ∧
    t.errorRecord = s.errorRecord ∧ (i ≠ .clrerr → t.err = s.err)) ∧
  ∀ (s t : State) (rest : List HostAction) (off : Offset) (v : Word),
    s.hung = false → (s.host = .regRead off :: rest ∨ s.host = .regWrite off v :: rest) →
    step s = .next t → (∀ c, t.result ≠ some (.err c)) →
    t.errorRecord = s.errorRecord ∧
      (t.err = s.err ∨ (t.err = none ∧ s.host = .regWrite 0x00 0xB0000000 :: rest))

/-- R295, R296: with BUS_EN = 0 each of the eight bus commands raises E_BUS_UNCONFIGURED, code 2, at offset 0x00, and NOP,
DECODE, CONV and CLRERR complete; with BUS_OPEN = 0 and the bus enabled WRB and RDB raise E_NOT_OPEN, code 3, at 0x00. -/
def Obligations.BusCommandsNeedTheBus : Prop :=
  ∀ (s : State) (b : Byte) (pol : AckPol) (a : BitVec 7) (n : BitVec 4) (k : ConvKind),
    (∀ i ∈ [Instr.start, .stop, .wrb b, .rdb pol, .fwr a n, .frd a n, .begin, .measure],
      s.busEn = false → exec i s = .next (errorResponse s .busUnconfigured 0x00)) ∧
    (∀ i ∈ [Instr.nop, .decode, .conv k, .clrerr], ∃ t, exec i s = .next t ∧ t.result = some .ok) ∧
    (∀ i ∈ [Instr.wrb b, .rdb pol],
      s.busEn = true → s.busOpen = false → exec i s = .next (errorResponse s .notOpen 0x00)) ∧
    errorCode (some .busUnconfigured) = 2 ∧ errorCode (some .notOpen) = 3

/-! ### The raw bus commands (40_byte_transfer.md) -/

/-- R160, R150: START. -/
def Obligations.StartOpensATransaction : Prop :=
  ∀ s : State,
    regWrite s 0x00 0x10000000 = exec .start s ∧
    (∀ v : Word, v.extractLsb' 28 4 = 0x1 → v.extractLsb' 0 28 ≠ 0 → RefusesWord s v) ∧
    NeedsBus .start s ∧
    (s.busEn = true → exec .start s = .next
      { s with
        log := s.log ++ [.start]
        emu := if s.params.endpoint = .emulator then betweenBytes s.emu true else s.emu
        busOpen := true
        cmd := 0x10000000
        result := some .ok })

/-- R161, R151: STOP, with BUS_OPEN = 0 too. -/
def Obligations.StopClosesATransaction : Prop :=
  ∀ s : State,
    regWrite s 0x00 0x20000000 = exec .stop s ∧
    (∀ v : Word, v.extractLsb' 28 4 = 0x2 → v.extractLsb' 0 28 ≠ 0 → RefusesWord s v) ∧
    NeedsBus .stop s ∧
    (s.busEn = true → exec .stop s = .next
      { s with
        log := s.log ++ [.stop]
        emu := if s.params.endpoint = .emulator then betweenBytes s.emu false else s.emu
        busOpen := false
        cmd := 0x20000000
        result := some .ok })

/-- R162, R152, R157: WRB sends one byte and reports the endpoint's reply; the emulator's is always ACK, an external
endpoint's is the next draw. BUS_OPEN and COUNT stay. The address byte 0x70 moves the emulator to ReceivingCommand. -/
def Obligations.WriteByteReportsTheReply : Prop :=
  ∀ (s : State) (b : Byte),
    regWrite s 0x00 (0x30000000 ||| b.setWidth 32) = exec (.wrb b) s ∧
    (∀ v : Word, v.extractLsb' 28 4 = 0x3 → v.extractLsb' 8 20 ≠ 0 → RefusesWord s v) ∧
    NeedsBus (.wrb b) s ∧ NeedsOpen (.wrb b) s ∧
    (s.busEn = true → s.busOpen = true → s.params.endpoint = .emulator → exec (.wrb b) s = .next
      { s with
        log := s.log ++ [.write b .ack]
        emu := (s.emu.onWrite b).2
        outcome := .ack
        cmd := 0x30000000 ||| b.setWidth 32
        result := some .ok }) ∧
    (s.emu.awaitAddr = true → (s.emu.onWrite 0x70).2.st = .receivingCommand) ∧
    (s.busEn = true → s.busOpen = true → s.params.endpoint = .external → ∀ r o, s.oracle.drawWrite = (r, o) →
      exec (.wrb b) s = .next
        { s with
          log := s.log ++ [.write b r]
          oracle := o
          outcome := r
          cmd := 0x30000000 ||| b.setWidth 32
          result := some .ok })

/-- R163, R153, R156, R157: RDB receives one byte. A delivered byte goes to RXB and the outcome is the master's own
acknowledgement; on TERR the outcome is TERR and RXB keeps its value. BUS_OPEN and COUNT stay. -/
def Obligations.ReadByteReportsTheMastersAcknowledgement : Prop :=
  ∀ (s : State) (pol : AckPol),
    regWrite s 0x00 (match pol with | .ack => 0x40000000 | .nack => 0x40000100) = exec (.rdb pol) s ∧
    (∀ v : Word, v.extractLsb' 28 4 = 0x4 → (v.extractLsb' 9 19 ≠ 0 ∨ v.extractLsb' 0 8 ≠ 0) → RefusesWord s v) ∧
    NeedsBus (.rdb pol) s ∧ NeedsOpen (.rdb pol) s ∧
    (s.busEn = true → s.busOpen = true → s.params.endpoint = .emulator →
      ∃ b e, s.emu.onRead pol = (.delivered b, e) ∧
        (s.emu.st = .idle → b = 0xFF) ∧
        (s.emu.st = .sendingData → s.emu.sendCnt = 0 → b = 0x08) ∧
        (s.emu.st = .sendingData → s.emu.sendCnt = 5 → b = 0xBB) ∧
        exec (.rdb pol) s = .next
        { s with
          log := s.log ++ [.read pol (.delivered b)]
          emu := e
          rxb := b
          outcome := (match pol with | .ack => .ack | .nack => .nack)
          cmd := (match pol with | .ack => 0x40000000 | .nack => 0x40000100)
          result := some .ok }) ∧
    (s.busEn = true → s.busOpen = true → s.params.endpoint = .external → ∀ r o, s.oracle.drawRead = (r, o) →
      exec (.rdb pol) s = .next
        { s with
          log := s.log ++ [.read pol r]
          oracle := o
          rxb := (match r with | .delivered b => b | .terr => s.rxb)
          outcome := (match r, pol with | .terr, _ => .terr | .delivered _, .ack => .ack | .delivered _, .nack => .nack)
          cmd := (match pol with | .ack => 0x40000000 | .nack => 0x40000100)
          result := some .ok })

/-! ### The framed commands (41_transaction_framer.md) -/

/-- R117: the address byte holds the 7-bit address in bits 7:1 and the direction in bit 0; for the slave it is 0x70 and
0x71. -/
def Obligations.AddressByteHoldsAddressAndDirection : Prop :=
  (∀ a : BitVec 7,
    (addressByte a .write).extractLsb' 1 7 = a ∧ (addressByte a .write).getLsbD 0 = false ∧
    (addressByte a .read).extractLsb' 1 7 = a ∧ (addressByte a .read).getLsbD 0 = true) ∧
  addressByte 0x38 .write = 0x70 ∧ addressByte 0x38 .read = 0x71

/-- R182: whatever the endpoint replies, a framing procedure logs exactly one Start, first, and one Stop, last, with only
written and read bytes between them, and FWR and FRD leave no transaction open. -/
def Obligations.FramingEmitsOneStartAndOneStop : Prop :=
  (∀ (s : State) (a : BitVec 7) (bs : List Byte), ∃ mid : List Event,
    (frameWrite s a bs).state.log = s.log ++ [.start] ++ mid ++ [.stop] ∧
    ∀ e ∈ mid, ∃ b r, e = .write b r) ∧
  (∀ (s : State) (a : BitVec 7) (n : Nat), ∃ mid : List Event,
    (frameRead s a n).state.log = s.log ++ [.start] ++ mid ++ [.stop] ∧
    ∀ e ∈ mid, (∃ b r, e = .write b r) ∨ ∃ p r, e = .read p r) ∧
  ∀ (s t : State) (a : BitVec 7) (n : BitVec 4), s.busEn = true →
    (exec (.fwr a n) s = .next t ∨ exec (.frd a n) s = .next t) → t.busOpen = false

/-- R184, R180: FWR. With an external endpoint, by its replies: it ends at the first byte that is not ACKed, reports that
reply and the number of data bytes ACKed, and always emits the Stop. With the emulator every byte is ACKed, and only the
first three data bytes sent to the slave's own address form a command. Its words and its errors. -/
def Obligations.FramedWriteStopsAtTheFirstFailure : Prop :=
  ∀ (s : State) (a : BitVec 7) (n : BitVec 4),
    regWrite s 0x00 (0x50000000 ||| (a.setWidth 32 <<< 16) ||| n.setWidth 32) = exec (.fwr a n) s ∧
    (∀ v : Word, v.extractLsb' 28 4 = 0x5 → (v.extractLsb' 23 5 ≠ 0 ∨ v.extractLsb' 4 12 ≠ 0) → RefusesWord s v) ∧
    NeedsBus (.fwr a n) s ∧
    (s.busEn = true → s.params.endpoint = .external →
      (∀ r w, r ≠ .ack → s.oracle.writeReplies = r :: w → exec (.fwr a n) s = .next
        { s with
          log := s.log ++ [.start, .write (addressByte a .write) r, .stop]
          oracle := s.left w s.oracle.readReplies
          outcome := r
          count := 0
          busOpen := false
          cmd := 0x50000000 ||| (a.setWidth 32 <<< 16) ||| n.setWidth 32
          result := some .ok }) ∧
      (∀ k r w, k < n.toNat → r ≠ .ack → s.oracle.writeReplies = List.replicate (k + 1) .ack ++ r :: w →
        exec (.fwr a n) s = .next
          { s with
            log := s.log ++ [.start, .write (addressByte a .write) .ack] ++
              (s.data.toList.take k).map (fun b => .write b .ack) ++ [.write (s.data.toList.getD k 0) r, .stop]
            oracle := s.left w s.oracle.readReplies
            outcome := r
            count := BitVec.ofNat 4 k
            busOpen := false
            cmd := 0x50000000 ||| (a.setWidth 32 <<< 16) ||| n.setWidth 32
            result := some .ok }) ∧
      (∀ w, s.oracle.writeReplies = List.replicate (n.toNat + 1) .ack ++ w → exec (.fwr a n) s = .next
        { s with
          log := s.log ++ [.start, .write (addressByte a .write) .ack] ++
            (s.data.toList.take n.toNat).map (fun b => .write b .ack) ++ [.stop]
          oracle := s.left w s.oracle.readReplies
          outcome := .ack
          count := n
          busOpen := false
          cmd := 0x50000000 ||| (a.setWidth 32 <<< 16) ||| n.setWidth 32
          result := some .ok })) ∧
    (s.busEn = true → s.params.endpoint = .emulator → exec (.fwr a n) s = .next
      { s with
        log := s.log ++ [.start, .write (addressByte a .write) .ack] ++
          (s.data.toList.take n.toNat).map (fun b => .write b .ack) ++ [.stop]
        emu := { betweenBytes s.emu false with
          calibrated := s.emu.calibrated ||
            (a == 0x38 && (s.data.toList.take n.toNat).take 3 == [0xBE, 0x08, 0x00])
          measTriggered := s.emu.measTriggered ||
            (s.emu.calibrated && a == 0x38 && (s.data.toList.take n.toNat).take 3 == [0xAC, 0x33, 0x00]) }
        outcome := .ack
        count := n
        busOpen := false
        cmd := 0x50000000 ||| (a.setWidth 32 <<< 16) ||| n.setWidth 32
        result := some .ok })

/-- R185, R181: FRD with an external endpoint, by its replies: an address failure reads nothing; the received bytes go to
DATA[0..k-1] and the rest of DATA stays; a TERR ends the read with the bytes kept; on success the outcome is ACK although
the last byte is NACKed. With the emulator (R243, R244, R247, R248, R255) the slave's own address gives the canned frame,
whatever CALIBRATED and MEAS_TRIGGERED are, then 0xFF, and a foreign address gives 0xFF. Its words and its errors. -/
def Obligations.FramedReadKeepsTheBytesReceived : Prop :=
  ∀ (s : State) (a : BitVec 7) (n : BitVec 4),
    regWrite s 0x00 (0x60000000 ||| (a.setWidth 32 <<< 16) ||| n.setWidth 32) = exec (.frd a n) s ∧
    (∀ v : Word, v.extractLsb' 28 4 = 0x6 → (v.extractLsb' 23 5 ≠ 0 ∨ v.extractLsb' 4 12 ≠ 0) → RefusesWord s v) ∧
    NeedsBus (.frd a n) s ∧
    (s.busEn = true → s.params.endpoint = .external →
      (∀ r w, r ≠ .ack → s.oracle.writeReplies = r :: w → exec (.frd a n) s = .next
        { s with
          log := s.log ++ [.start, .write (addressByte a .read) r, .stop]
          oracle := s.left w s.oracle.readReplies
          outcome := r
          count := 0
          busOpen := false
          cmd := 0x60000000 ||| (a.setWidth 32 <<< 16) ||| n.setWidth 32
          result := some .ok }) ∧
      (∀ w bs q, s.oracle.writeReplies = .ack :: w → bs.length < n.toNat →
        s.oracle.readReplies = bs.map .delivered ++ .terr :: q →
        ∃ t, exec (.frd a n) s = .next t ∧
          t = { s with
            log := s.log ++ [.start, .write (addressByte a .read) .ack] ++ readEvents n.toNat bs ++
              [.read (ackOfByte n.toNat bs.length) .terr, .stop]
            oracle := s.left w q
            data := t.data
            outcome := .terr
            count := BitVec.ofNat 4 bs.length
            busOpen := false
            cmd := 0x60000000 ||| (a.setWidth 32 <<< 16) ||| n.setWidth 32
            result := some .ok } ∧
          ∀ i : Fin 16, t.data[i] = bs.getD i.val s.data[i]) ∧
      (∀ w bs q, s.oracle.writeReplies = .ack :: w → bs.length = n.toNat →
        s.oracle.readReplies = bs.map .delivered ++ q →
        ∃ t, exec (.frd a n) s = .next t ∧
          t = { s with
            log := s.log ++ [.start, .write (addressByte a .read) .ack] ++ readEvents n.toNat bs ++ [.stop]
            oracle := s.left w q
            data := t.data
            outcome := .ack
            count := n
            busOpen := false
            cmd := 0x60000000 ||| (a.setWidth 32 <<< 16) ||| n.setWidth 32
            result := some .ok } ∧
          ∀ i : Fin 16, t.data[i] = bs.getD i.val s.data[i])) ∧
    (s.busEn = true → s.params.endpoint = .emulator →
      ∃ t bs, exec (.frd a n) s = .next t ∧ bs.length = n.toNat ∧
        (∀ i, i < n.toNat → bs[i]? = some
          (if a = 0x38 then [0x08, 0xAA, 0xAA, 0xAB, 0xBB, 0xBB].getD i 0xFF else 0xFF)) ∧
        t = { s with
          log := s.log ++ [.start, .write (addressByte a .read) .ack] ++ readEvents n.toNat bs ++ [.stop]
          emu := betweenBytes s.emu false
          data := t.data
          outcome := .ack
          count := n
          busOpen := false
          cmd := 0x60000000 ||| (a.setWidth 32 <<< 16) ||| n.setWidth 32
          result := some .ok } ∧
        ∀ i : Fin 16, t.data[i] = bs.getD i.val s.data[i])

/-! ### The AHT20 sequences (42_aht20_protocol.md) -/

/-- R203, R202: BEGIN, by the endpoint's replies: a failure of the calibrate write gives TRANSPORT_ABSENT with no delay and
no status read; a failure of the status read gives TRANSPORT_ABSENT and keeps AHT_STATUS; a status byte gives OK or
NOT_CALIBRATED by its bit 3 alone; with the emulator it calibrates and gives OK. -/
def Obligations.BeginReportsTheSensor : Prop :=
  ∀ s : State,
    regWrite s 0x00 0x70000000 = exec .begin s ∧
    (∀ v : Word, v.extractLsb' 28 4 = 0x7 → v.extractLsb' 0 28 ≠ 0 → RefusesWord s v) ∧
    NeedsBus .begin s ∧
    (s.busEn = true → s.params.endpoint = .external →
      (∀ k r w, k ≤ 3 → r ≠ .ack → s.oracle.writeReplies = List.replicate k .ack ++ r :: w →
        exec .begin s = .next
          { s with
            log := s.log ++ [.start] ++ (([0x70, 0xBE, 0x08, 0x00] : List Byte).take k).map (fun b => .write b .ack) ++
              [.write (([0x70, 0xBE, 0x08, 0x00] : List Byte).getD k 0) r, .stop]
            oracle := s.left w s.oracle.readReplies
            outcome := r
            count := BitVec.ofNat 4 (k - 1)
            busOpen := false
            ahtResult := .transportAbsent
            cmd := 0x70000000
            result := some .ok }) ∧
      (∀ rest r w, s.host = .answerDelay :: rest → r ≠ .ack →
        s.oracle.writeReplies = [.ack, .ack, .ack, .ack] ++ r :: w →
        exec .begin s = .next
          { s with
            log := s.log ++ [.start, .write 0x70 .ack, .write 0xBE .ack, .write 0x08 .ack, .write 0x00 .ack, .stop,
              .delay s.params.delayBeginMs, .start, .write 0x71 r, .stop]
            oracle := s.left w s.oracle.readReplies
            host := rest
            outcome := r
            count := 0
            busOpen := false
            ahtResult := .transportAbsent
            cmd := 0x70000000
            result := some .ok }) ∧
      (∀ rest w reply q, s.host = .answerDelay :: rest →
        s.oracle.writeReplies = [.ack, .ack, .ack, .ack, .ack] ++ w → s.oracle.readReplies = reply :: q →
        exec .begin s = .next
          { s with
            log := s.log ++ [.start, .write 0x70 .ack, .write 0xBE .ack, .write 0x08 .ack, .write 0x00 .ack, .stop,
              .delay s.params.delayBeginMs, .start, .write 0x71 .ack, .read .nack reply, .stop]
            oracle := s.left w q
            host := rest
            outcome := (match reply with | .delivered _ => .ack | .terr => .terr)
            count := (match reply with | .delivered _ => 1 | .terr => 0)
            busOpen := false
            ahtStatus := (match reply with | .delivered b => b | .terr => s.ahtStatus)
            ahtResult := (match reply with
              | .delivered b => if b.getLsbD 3 = true then .ok else .notCalibrated
              | .terr => .transportAbsent)
            cmd := 0x70000000
            result := some .ok })) ∧
    (∀ rest, s.busEn = true → s.params.endpoint = .emulator → s.host = .answerDelay :: rest →
      exec .begin s = .next
        { s with
          log := s.log ++ [.start, .write 0x70 .ack, .write 0xBE .ack, .write 0x08 .ack, .write 0x00 .ack, .stop,
            .delay s.params.delayBeginMs, .start, .write 0x71 .ack, .read .nack (.delivered 0x08), .stop]
          emu := { betweenBytes s.emu false with calibrated := true }
          host := rest
          outcome := .ack
          count := 1
          busOpen := false
          ahtStatus := 0x08
          ahtResult := .ok
          cmd := 0x70000000
          result := some .ok })

/-- R205, R202: MEASURE, by the endpoint's replies: a failure of the trigger write, or of the read's address byte, gives
TRANSPORT_ABSENT with FRAME unchanged; a TERR on data byte k gives SHORT_READ with FRAME[0..k-1] written and the rest
unchanged; six bytes give OK. Its words and its errors. -/
def Obligations.MeasureReportsTheFrame : Prop :=
  ∀ s : State,
    regWrite s 0x00 0x80000000 = exec .measure s ∧
    (∀ v : Word, v.extractLsb' 28 4 = 0x8 → v.extractLsb' 0 28 ≠ 0 → RefusesWord s v) ∧
    NeedsBus .measure s ∧
    (s.busEn = true → s.params.endpoint = .external →
      (∀ k r w, k ≤ 3 → r ≠ .ack → s.oracle.writeReplies = List.replicate k .ack ++ r :: w →
        exec .measure s = .next
          { s with
            log := s.log ++ [.start] ++ (([0x70, 0xAC, 0x33, 0x00] : List Byte).take k).map (fun b => .write b .ack) ++
              [.write (([0x70, 0xAC, 0x33, 0x00] : List Byte).getD k 0) r, .stop]
            oracle := s.left w s.oracle.readReplies
            outcome := r
            count := BitVec.ofNat 4 (k - 1)
            busOpen := false
            ahtResult := .transportAbsent
            cmd := 0x80000000
            result := some .ok }) ∧
      (∀ rest r w, s.host = .answerDelay :: rest → r ≠ .ack →
        s.oracle.writeReplies = [.ack, .ack, .ack, .ack] ++ r :: w →
        exec .measure s = .next
          { s with
            log := s.log ++ [.start, .write 0x70 .ack, .write 0xAC .ack, .write 0x33 .ack, .write 0x00 .ack, .stop,
              .delay s.params.delayMeasMs, .start, .write 0x71 r, .stop]
            oracle := s.left w s.oracle.readReplies
            host := rest
            outcome := r
            count := 0
            busOpen := false
            ahtResult := .transportAbsent
            cmd := 0x80000000
            result := some .ok }) ∧
      (∀ rest w bs q, s.host = .answerDelay :: rest → s.oracle.writeReplies = [.ack, .ack, .ack, .ack, .ack] ++ w →
        bs.length < 6 → s.oracle.readReplies = bs.map .delivered ++ .terr :: q →
        ∃ t, exec .measure s = .next t ∧
          t = { s with
            log := s.log ++ [.start, .write 0x70 .ack, .write 0xAC .ack, .write 0x33 .ack, .write 0x00 .ack, .stop,
              .delay s.params.delayMeasMs, .start, .write 0x71 .ack] ++ readEvents 6 bs ++
              [.read (ackOfByte 6 bs.length) .terr, .stop]
            oracle := s.left w q
            host := rest
            frame := t.frame
            outcome := .terr
            count := BitVec.ofNat 4 bs.length
            busOpen := false
            ahtResult := .shortRead
            cmd := 0x80000000
            result := some .ok } ∧
          ∀ i : Fin 6, t.frame[i] = bs.getD i.val s.frame[i]) ∧
      (∀ rest w b0 b1 b2 b3 b4 b5 q, s.host = .answerDelay :: rest →
        s.oracle.writeReplies = [.ack, .ack, .ack, .ack, .ack] ++ w →
        s.oracle.readReplies = [b0, b1, b2, b3, b4, b5].map .delivered ++ q →
        exec .measure s = .next
          { s with
            log := s.log ++ [.start, .write 0x70 .ack, .write 0xAC .ack, .write 0x33 .ack, .write 0x00 .ack, .stop,
              .delay s.params.delayMeasMs, .start, .write 0x71 .ack] ++ readEvents 6 [b0, b1, b2, b3, b4, b5] ++ [.stop]
            oracle := s.left w q
            host := rest
            frame := #v[b0, b1, b2, b3, b4, b5]
            outcome := .ack
            count := 6
            busOpen := false
            ahtResult := .ok
            cmd := 0x80000000
            result := some .ok })) ∧
    (∀ rest, s.busEn = true → s.params.endpoint = .emulator → s.host = .answerDelay :: rest →
      exec .measure s = .next
        { s with
          log := s.log ++ [.start, .write 0x70 .ack, .write 0xAC .ack, .write 0x33 .ack, .write 0x00 .ack, .stop,
            .delay s.params.delayMeasMs, .start, .write 0x71 .ack] ++
            readEvents 6 [0x08, 0xAA, 0xAA, 0xAB, 0xBB, 0xBB] ++ [.stop]
          emu := { betweenBytes s.emu false with measTriggered := s.emu.measTriggered || s.emu.calibrated }
          host := rest
          frame := #v[0x08, 0xAA, 0xAA, 0xAB, 0xBB, 0xBB]
          outcome := .ack
          count := 6
          busOpen := false
          ahtResult := .ok
          cmd := 0x80000000
          result := some .ok })

/-- R209: with the emulator, BEGIN always ends with AHT_RESULT = OK and AHT_STATUS = 0x08, whatever CALIBRATED is, in every
state whose host answers the delay; stated of the step, so of any run. -/
def Obligations.BeginWithTheEmulatorIsAlwaysReady : Prop :=
  ∀ (s : State) (rest : List HostAction),
    s.hung = false → s.busEn = true → s.params.endpoint = .emulator →
    s.host = .regWrite 0x00 0x70000000 :: .answerDelay :: rest →
    ∃ t, step s = .next t ∧ t.ahtResult = .ok ∧ t.ahtStatus = cannedFrame[0] ∧ t.ahtStatus = 0x08 ∧ t.host = rest

/-- R329, R200: a host that does not answer hangs BEGIN and MEASURE, with the emulator and with an external endpoint that ACKs
the write: the delay is logged, CMD keeps its value, the access does not return, and no later step happens. That the answer
is the host's next action is the model's choice (assumption log 4). -/
def Obligations.UnansweredDelayHangsTheBlock : Prop :=
  (∀ s : State, s.hung = true → step s = .fault .delayUnanswered) ∧
  ∀ s : State, s.busEn = true → (∀ rest, s.host ≠ .answerDelay :: rest) →
    (s.params.endpoint = .emulator →
      exec .begin s = .next
        { s with
          log := s.log ++ [.start, .write 0x70 .ack, .write 0xBE .ack, .write 0x08 .ack, .write 0x00 .ack, .stop,
            .delay s.params.delayBeginMs]
          emu := { betweenBytes s.emu false with calibrated := true }
          outcome := .ack
          count := 3
          busOpen := false
          hung := true
          result := none } ∧
      exec .measure s = .next
        { s with
          log := s.log ++ [.start, .write 0x70 .ack, .write 0xAC .ack, .write 0x33 .ack, .write 0x00 .ack, .stop,
            .delay s.params.delayMeasMs]
          emu := { betweenBytes s.emu false with measTriggered := s.emu.measTriggered || s.emu.calibrated }
          outcome := .ack
          count := 3
          busOpen := false
          hung := true
          result := none }) ∧
    (s.params.endpoint = .external → ∀ w, s.oracle.writeReplies = [.ack, .ack, .ack, .ack] ++ w →
      exec .begin s = .next
        { s with
          log := s.log ++ [.start, .write 0x70 .ack, .write 0xBE .ack, .write 0x08 .ack, .write 0x00 .ack, .stop,
            .delay s.params.delayBeginMs]
          oracle := s.left w s.oracle.readReplies
          outcome := .ack
          count := 3
          busOpen := false
          hung := true
          result := none } ∧
      exec .measure s = .next
        { s with
          log := s.log ++ [.start, .write 0x70 .ack, .write 0xAC .ack, .write 0x33 .ack, .write 0x00 .ack, .stop,
            .delay s.params.delayMeasMs]
          oracle := s.left w s.oracle.readReplies
          outcome := .ack
          count := 3
          busOpen := false
          hung := true
          result := none })

/-! ### The decoder (43_measurement_decoder.md) -/

/-- R220, R221, R222: the raw values as the numbers their bytes pack, and the calibration flag. -/
def Obligations.RawValuesAreTheirPackedBytes : Prop :=
  ∀ f : Vector Byte 6,
    (rawHOf f).toNat = f[1].toNat * 4096 + f[2].toNat * 16 + f[3].toNat / 16 ∧
    (rawTOf f).toNat = f[3].toNat % 16 * 65536 + f[4].toNat * 256 + f[5].toNat ∧
    calOf f = f[0].getLsbD 3

/-- R225, R226: the conversions are exact for every 32-bit input, with no wrap-around and no clamping. -/
def Obligations.ConversionsAreExact : Prop :=
  ∀ r : Word,
    (convH r).toNat = r.toNat * 100 / 1048576 ∧ (convH r).toNat ≤ 409599 ∧
    (convT r).toInt = (r.toNat : Int) * 200 / 1048576 - 50 ∧ -50 ≤ (convT r).toInt ∧ (convT r).toInt ≤ 819149 ∧
    (r.toNat < 1048576 → (convH r).toNat ≤ 99 ∧ (convT r).toInt ≤ 149)

/-- R231: packing is the inverse of extraction. -/
def Obligations.PackingIsTheInverseOfExtraction : Prop :=
  ∀ (status : Byte) (h t : BitVec 20),
    packFrame status h t = #v[status, h.extractLsb' 12 8, h.extractLsb' 4 8,
      ((h.extractLsb' 0 4).setWidth 8 <<< 4) ||| (t.extractLsb' 16 4).setWidth 8, t.extractLsb' 8 8, t.extractLsb' 0 8] ∧
    rawHOf (packFrame status h t) = h ∧ rawTOf (packFrame status h t) = t ∧
    calOf (packFrame status h t) = status.getLsbD 3

/-- R223: DECODE, without the bus and with nothing else changed; its words. -/
def Obligations.DecodeExtractsAndConverts : Prop :=
  ∀ s : State,
    regWrite s 0x00 0x90000000 = exec .decode s ∧
    (∀ v : Word, v.extractLsb' 28 4 = 0x9 → v.extractLsb' 0 28 ≠ 0 → RefusesWord s v) ∧
    exec .decode s = .next
      { s with
        rawH := rawHOf s.frame
        rawT := rawTOf s.frame
        hum := convH ((rawHOf s.frame).setWidth 32)
        temp := convT ((rawTOf s.frame).setWidth 32)
        dcal := s.frame[0].getLsbD 3
        cmd := 0x90000000
        result := some .ok } ∧
    (s.frame = #v[0x08, 0xAA, 0xAA, 0xAB, 0xBB, 0xBB] → rawHOf s.frame = 0xAAAAA ∧ rawTOf s.frame = 0xBBBBB ∧
      convH ((rawHOf s.frame).setWidth 32) = 66 ∧ convT ((rawTOf s.frame).setWidth 32) = 96) ∧
    (s.frame = #v[0, 0, 0, 0, 0, 0] → rawHOf s.frame = 0 ∧ rawTOf s.frame = 0 ∧
      convH ((rawHOf s.frame).setWidth 32) = 0 ∧ convT ((rawTOf s.frame).setWidth 32) = 0xFFFFFFCE) ∧
    (s.frame = #v[0xFF, 0xFF, 0xFF, 0xFF, 0xFF, 0xFF] → rawHOf s.frame = 0xFFFFF ∧ rawTOf s.frame = 0xFFFFF ∧
      convH ((rawHOf s.frame).setWidth 32) = 99 ∧ convT ((rawTOf s.frame).setWidth 32) = 149)

/-- R224: CONV changes HUM or TEMP alone, without the bus; its words and corner cases. -/
def Obligations.ConvConvertsRawIn : Prop :=
  ∀ s : State,
    regWrite s 0x00 0xA0000000 = exec (.conv .humidity) s ∧
    regWrite s 0x00 0xA0000001 = exec (.conv .temperature) s ∧
    (∀ v : Word, v.extractLsb' 28 4 = 0xA → v.extractLsb' 1 27 ≠ 0 → RefusesWord s v) ∧
    exec (.conv .humidity) s = .next { s with hum := convH s.rawIn, cmd := 0xA0000000, result := some .ok } ∧
    exec (.conv .temperature) s = .next { s with temp := convT s.rawIn, cmd := 0xA0000001, result := some .ok } ∧
    convH 0x100000 = 100 ∧ convT 0x100000 = 150 ∧ convH 0xFFFFFFFF = 409599 ∧ convT 0xFFFFFFFF = 819149 ∧
    convT 0x80000 = 50

/-! ### The emulator (44_slave_emulator.md) -/

/-- R257: the complete transition table of the emulator, one clause per row, the CMD_CNT 0 or 1 row and the SEND_CNT 0 to 4
row for each of their values. -/
def Obligations.EmulatorTransitionTable : Prop :=
  ∀ (e : Emulator) (b : Byte) (pol : AckPol),
    e.onStart = betweenBytes e true ∧
    e.onStop = betweenBytes e false ∧
    (e.awaitAddr = true → e.onWrite 0x70 = (.ack, { e with awaitAddr := false, cmdCnt := 0, st := .receivingCommand })) ∧
    (e.awaitAddr = true → e.onWrite 0x71 = (.ack, { e with awaitAddr := false, sendCnt := 0, st := .sendingData })) ∧
    (e.awaitAddr = true → b ≠ 0x70 → b ≠ 0x71 → e.onWrite b = (.ack, { e with awaitAddr := false })) ∧
    (e.awaitAddr = false → e.st = .receivingCommand → e.cmdCnt = 0 →
      e.onWrite b = (.ack, { e with cmdBuf := e.cmdBuf.set 0 b, cmdCnt := 1 })) ∧
    (e.awaitAddr = false → e.st = .receivingCommand → e.cmdCnt = 1 →
      e.onWrite b = (.ack, { e with cmdBuf := e.cmdBuf.set 1 b, cmdCnt := 2 })) ∧
    (e.awaitAddr = false → e.st = .receivingCommand → e.cmdCnt = 2 →
      e.onWrite b = (.ack,
        { e with
          cmdBuf := e.cmdBuf.set 2 b
          cmdCnt := 3
          st := .idle
          calibrated := e.calibrated || (e.cmdBuf.set 2 b == #v[0xBE, 0x08, 0x00])
          measTriggered := e.measTriggered || (e.calibrated && e.cmdBuf.set 2 b == #v[0xAC, 0x33, 0x00]) })) ∧
    (e.awaitAddr = false → e.st = .idle → e.onWrite b = (.ack, e)) ∧
    (e.awaitAddr = false → e.st = .sendingData → e.onWrite b = (.ack, e)) ∧
    (∀ k : Fin 5, e.st = .sendingData → e.sendCnt.val = k.val →
      ∃ e', e.onRead pol = (.delivered (cannedFrame[k.val]), e') ∧ e' = { e with sendCnt := e'.sendCnt } ∧
        e'.sendCnt.val = k.val + 1) ∧
    (e.st = .sendingData → e.sendCnt = 5 → e.onRead pol = (.delivered 0xBB, { e with sendCnt := 6, st := .idle })) ∧
    (e.st = .idle → e.onRead pol = (.delivered 0xFF, e)) ∧
    (e.st = .receivingCommand → e.onRead pol = (.delivered 0xFF, e))

/-- R249, R254: the emulator ACKs every written byte and delivers a byte to every read request, in every state, and its
reaction to a read request does not depend on the master's acknowledgement. -/
def Obligations.EmulatorNeverRefuses : Prop :=
  ∀ (e : Emulator) (b : Byte),
    (e.onWrite b).1 = .ack ∧ (∃ x e', e.onRead .ack = (.delivered x, e')) ∧ e.onRead .nack = e.onRead .ack

/-- R243, R242: the address rows EMU_ADDR_W and EMU_ADDR_R: with the emulator awaiting an address they open a command or a
read; otherwise the byte is a data byte, ignored in Idle and SendingData; with an external endpoint nothing changes. That
an emulator row is delivered to the emulator alone is the model's choice (assumption log 7). -/
def Obligations.EmulatorAddressRowsOpenATransaction : Prop :=
  ∀ s : State,
    (s.params.endpoint = .emulator → s.emu.awaitAddr = true →
      exec .emuAddrW s = .next
        { s with emu := { s.emu with awaitAddr := false, cmdCnt := 0, st := .receivingCommand } } ∧
      exec .emuAddrR s = .next
        { s with emu := { s.emu with awaitAddr := false, sendCnt := 0, st := .sendingData } }) ∧
    (s.params.endpoint = .emulator → s.emu.awaitAddr = false → s.emu.st ≠ .receivingCommand →
      exec .emuAddrW s = .next s ∧ exec .emuAddrR s = .next s) ∧
    (s.params.endpoint = .external → exec .emuAddrW s = .next s ∧ exec .emuAddrR s = .next s)

/-- R245, R250, R251, R252: the frame rows EMU_CAL and EMU_TRIG received at the start of a command: the calibrate frame
sets CALIBRATED, the trigger frame sets MEAS_TRIGGERED if CALIBRATED is 1, and the emulator is Idle with the frame in its
buffer; outside a command the bytes are ignored; with an external endpoint nothing changes. (The delivery: assumption log
7.) -/
def Obligations.EmulatorFrameRowsSetTheSensorFlags : Prop :=
  ∀ s : State,
    (s.params.endpoint = .emulator → s.emu.awaitAddr = false → s.emu.st = .receivingCommand → s.emu.cmdCnt = 0 →
      exec .emuCal s = .next
        { s with emu := { s.emu with
          cmdBuf := #v[0xBE, 0x08, 0x00], cmdCnt := 3, st := .idle, calibrated := true } } ∧
      exec .emuTrig s = .next
        { s with emu := { s.emu with
          cmdBuf := #v[0xAC, 0x33, 0x00], cmdCnt := 3, st := .idle,
          measTriggered := s.emu.measTriggered || s.emu.calibrated } }) ∧
    (s.params.endpoint = .emulator → s.emu.awaitAddr = false → s.emu.st ≠ .receivingCommand →
      exec .emuCal s = .next s ∧ exec .emuTrig s = .next s) ∧
    (s.params.endpoint = .external → exec .emuCal s = .next s ∧ exec .emuTrig s = .next s)

/-- R253: any 3-byte sequence that is neither CommandFrame completes a command and changes neither sensor flag. -/
def Obligations.UnrecognizedFrameChangesNoFlag : Prop :=
  ∀ (e : Emulator) (b0 b1 b2 : Byte),
    e.awaitAddr = false → e.st = .receivingCommand → e.cmdCnt = 0 →
    [b0, b1, b2] ≠ [0xBE, 0x08, 0x00] → [b0, b1, b2] ≠ [0xAC, 0x33, 0x00] →
    e.onWrites [b0, b1, b2] = { e with cmdBuf := #v[b0, b1, b2], cmdCnt := 3, st := .idle }

/-- R259: the invariants of the emulator hold of its reset state and are kept by every symbol. -/
def Obligations.EmulatorInvariantIsKept : Prop :=
  Emulator.reset.Inv ∧
  ∀ e : Emulator, e.Inv → e.onStart.Inv ∧ e.onStop.Inv ∧ (∀ b, (e.onWrite b).2.Inv) ∧ ∀ p, (e.onRead p).2.Inv

/-! ### The system commands and reset (46_system.md, 70_reset_and_hazards.md) -/

/-- R280: NOP writes CMD alone, with or without the bus; its words. -/
def Obligations.NopDoesNothing : Prop :=
  ∀ s : State,
    regWrite s 0x00 0x00000000 = exec .nop s ∧
    (∀ v : Word, v.extractLsb' 28 4 = 0x0 → v.extractLsb' 0 28 ≠ 0 → RefusesWord s v) ∧
    exec .nop s = .next { s with cmd := 0x00000000, result := some .ok }

/-- R281: CLRERR clears ERR and not the error record, with or without the bus; its words. -/
def Obligations.ClrerrClearsErr : Prop :=
  ∀ s : State,
    regWrite s 0x00 0xB0000000 = exec .clrerr s ∧
    (∀ v : Word, v.extractLsb' 28 4 = 0xB → v.extractLsb' 0 28 ≠ 0 → RefusesWord s v) ∧
    exec .clrerr s = .next { s with err := none, cmd := 0xB0000000, result := some .ok }

/-- R320: reset gives every register of the master and the emulator its reset value, logs Reset, emits no bus symbol and
keeps the error record. CONFIG shows the parameters. -/
def Obligations.ResetLeavesTheResetValues : Prop :=
  ∀ (s : State) (rest : List HostAction), s.hung = false → s.host = .reset :: rest →
    ∃ t, step s = .next t ∧
      t.log = s.log ++ [.reset] ∧ t.errorRecord = s.errorRecord ∧ t.params = s.params ∧
      (∀ r, r ≠ .config → regValue t r = 0) ∧
      t.busEn = false ∧
      ((configWord t).getLsbD 1 = s.params.busAvailable) ∧
      ((configWord t).getLsbD 2 = true ↔ s.params.endpoint = .external) ∧
      t.emu =
        { st := .idle, awaitAddr := false, cmdCnt := 0, sendCnt := 0, calibrated := false, measTriggered := false,
          cmdBuf := #v[0, 0, 0] }

/-- R32, R41, R60, R61: what the machine holds right after reset. -/
def Obligations.ResetStateHasTheResetValues : Prop :=
  (∀ p : Params, (∀ r, r ≠ .config → regValue (State.resetWith p) r = 0) ∧
    configWord (State.resetWith p) =
      (if p.busAvailable then 2 else 0) + (if p.endpoint = .external then 4 else 0) ∧
    (State.resetWith p).log = [] ∧ (State.resetWith p).errorRecord = []) ∧
  State.reset = State.resetWith Params.standard

/-! ### The step -/

/-- R115: when the host's next action writes to CMD a word that decodes to an instruction, the step is that instruction's
execution, with the action taken off the host's list. -/
def Obligations.StepRunsTheDecodedCommand : Prop :=
  ∀ (s : State) (v : Word) (i : Instr) (rest : List HostAction),
    s.hung = false → s.host = .regWrite 0x00 v :: rest → decode (.cmd32 v) = .ok i →
    step s = exec i { s with host := rest }

/-- R122, R242, R250: an emulator row runs when the bus command that carries it runs: the address byte of a WRB, or the
third command byte of a WRB, puts the emulator in the state the decoded row's execution gives it. (Assumption log 7.) -/
def Obligations.StepRunsTheEmulatorRow : Prop :=
  ∀ (s : State) (b : Byte) (i : Instr) (rest : List HostAction),
    s.hung = false → s.busEn = true → s.busOpen = true → s.params.endpoint = .emulator →
    s.host = .regWrite 0x00 (0x30000000 ||| b.setWidth 32) :: rest →
    (s.emu.awaitAddr = true → decode (.addr8 b) = .ok i →
      ∃ t u, step s = .next t ∧ exec i s = .next u ∧ t.emu = u.emu) ∧
    (s.emu.awaitAddr = false → s.emu.st = .receivingCommand → s.emu.cmdCnt = 2 →
      decode (.cmd24 (frameValue [s.emu.cmdBuf[0], s.emu.cmdBuf[1], b])) = .ok i →
      ∃ t u, step s = .next t ∧ exec i { s with emu := { s.emu with cmdCnt := 0 } } = .next u ∧ t.emu = u.emu)

/-- R115 "Every command that passes them completes": with the bus enabled where the command uses the bus, a transaction open
where it is WRB or RDB, and the host answering where it is BEGIN or MEASURE (assumption log 4), every host command answers a
next state in which CMD holds its word and the access answered Ok, whatever the endpoint and its replies. -/
def Obligations.EveryCommandThatPassesItsChecksCompletes : Prop :=
  ∀ (i : Instr) (s : State),
    PassesChecks i s → ((i = .begin ∨ i = .measure) → ∃ rest, s.host = .answerDelay :: rest) →
    ∃ t, exec i s = .next t ∧ encode i = .cmd32 t.cmd ∧ t.result = some .ok ∧ t.hung = s.hung ∧
      t.errorRecord = s.errorRecord

/-- R88, R258: a step always goes on, unless the block hangs (assumption log 4). R321: after reset the block waits for the host's
first access; that with no action left in the host's list every step answers the same state is the model's choice
(assumption log 3). -/
def Obligations.StepStopsOnlyInAHang : Prop :=
  ∀ s : State,
    (s.hung = false → ∃ t, step s = .next t) ∧
    (s.hung = true → step s = .fault .delayUnanswered) ∧
    (s.hung = false → s.host = [] → step s = .next s)

/-! ### Whole-machine rules -/

/-- R33, R36, R38, R41, R259: every step keeps the invariant of reachable states. -/
def Obligations.StepKeepsTheInvariant : Prop :=
  ∀ s t : State, s.Inv → step s = .next t → t.Inv

/-- The invariant holds at reset, for every choice of the parameters. -/
def Obligations.InvariantHoldsAtReset : Prop :=
  ∀ p : Params, (State.resetWith p).Inv

/-- R59, R60: every step keeps the emulator a function of the logged bus traffic: it is in exactly the state that the
exchanges of the log put it in, and with an external endpoint it stays at its reset state. -/
def Obligations.EmulatorFollowsTheLog : Prop :=
  (∀ p : Params, (State.resetWith p).EmulatorFollowsLog) ∧
  ∀ s t : State, s.EmulatorFollowsLog → step s = .next t → t.EmulatorFollowsLog

/-- R60: the log only grows, and with the emulator as the endpoint no step logs a NACKed byte or a transport error (R249,
R158). -/
def Obligations.LogGrowsAndTheEmulatorNeverFails : Prop :=
  ∀ s t : State, step s = .next t →
    ∃ new, t.log = s.log ++ new ∧ t.params = s.params ∧
      (s.params.endpoint = .emulator → ∀ e ∈ new, e.isFailure = false)

/-- R260: nothing but reset clears CALIBRATED or MEAS_TRIGGERED, and with an external endpoint nothing sets them. -/
def Obligations.SensorFlagsPersist : Prop :=
  ∀ s t : State, step s = .next t →
    ((∀ rest, s.host ≠ .reset :: rest) →
      (s.emu.calibrated = true → t.emu.calibrated = true) ∧
      (s.emu.measTriggered = true → t.emu.measTriggered = true)) ∧
    (s.params.endpoint = .external → (t.emu.calibrated = true → s.emu.calibrated = true) ∧
      (t.emu.measTriggered = true → s.emu.measTriggered = true))

/-- R304: with the bus unavailable AVAIL reads 0, BUS_EN stays 0, every bus command raises E_BUS_UNCONFIGURED, and no step
but reset logs anything. -/
def Obligations.UnavailableBusStaysSilent : Prop :=
  ∀ s : State, s.params.busAvailable = false → s.busEn = false →
    (configWord s).getLsbD 1 = false ∧
    (∀ (b : Byte) (pol : AckPol) (a : BitVec 7) (n : BitVec 4),
      ∀ i ∈ [Instr.start, .stop, .wrb b, .rdb pol, .fwr a n, .frd a n, .begin, .measure],
        exec i s = .next (errorResponse s .busUnconfigured 0x00)) ∧
    ∀ t, step s = .next t →
      t.busEn = false ∧ t.params.busAvailable = false ∧
        (t.log = s.log ∨ (t.log = s.log ++ [.reset] ∧ ∃ rest, s.host = .reset :: rest))

/-- R34 ("written by"), R42 to R49: no command writes RAW_IN, CONFIG or a parameter; DATA is written only by FRD, FRAME only
by MEASURE, RXB only by RDB, AHT_STATUS only by BEGIN, AHT_RESULT only by BEGIN and MEASURE, RAW_H, RAW_T and DCAL only by
DECODE, HUM and TEMP only by DECODE and the CONV of their kind, COUNT only by the framed commands, OUTCOME by these, WRB and
RDB, BUS_OPEN by these, START and STOP. A command that raises an error is no exception. -/
def Obligations.RegistersAreWrittenOnlyByTheirWriters : Prop :=
  ∀ (i : Instr) (s t : State), exec i s = .next t →
    t.rawIn = s.rawIn ∧ t.busEn = s.busEn ∧ t.params = s.params ∧
    ((∀ a n, i ≠ .frd a n) → t.data = s.data) ∧
    (i ≠ .measure → t.frame = s.frame) ∧
    ((∀ p, i ≠ .rdb p) → t.rxb = s.rxb) ∧
    (i ≠ .begin → t.ahtStatus = s.ahtStatus) ∧
    (i ≠ .begin → i ≠ .measure → t.ahtResult = s.ahtResult) ∧
    (i ≠ .decode → t.rawH = s.rawH ∧ t.rawT = s.rawT ∧ t.dcal = s.dcal) ∧
    (i ≠ .decode → i ≠ .conv .humidity → t.hum = s.hum) ∧
    (i ≠ .decode → i ≠ .conv .temperature → t.temp = s.temp) ∧
    ((∀ a n, i ≠ .fwr a n) → (∀ a n, i ≠ .frd a n) → i ≠ .begin → i ≠ .measure →
      t.count = s.count ∧
      ((∀ b, i ≠ .wrb b) → (∀ p, i ≠ .rdb p) → t.outcome = s.outcome) ∧
      (i ≠ .start → i ≠ .stop → t.busOpen = s.busOpen))

/-- R125: the pseudo-instructions and the accesses they stand for: a command mnemonic writes its word to CMD, ENABLE writes 1
to CONFIG, LOADD and LOADF write their bytes to DATA and FRAME from index 0 on, SEND is LOADD and then FWR. -/
def Obligations.HostLinesExpand : Prop :=
  (∀ i w, encode i = .cmd32 w → expandLine (.command i) = [.regWrite 0x00 w]) ∧
  expandLine .enable = [.regWrite 0x08 0x00000001] ∧
  (∀ bs : List Byte, bs.length ≤ 16 → expandLine (.loadD bs) =
    bs.zipIdx.map fun p => .regWrite (BitVec.ofNat 8 (0x40 + 4 * p.2)) (p.1.setWidth 32)) ∧
  (∀ bs : List Byte, bs.length = 6 → expandLine (.loadF bs) =
    bs.zipIdx.map fun p => .regWrite (BitVec.ofNat 8 (0x80 + 4 * p.2)) (p.1.setWidth 32)) ∧
  ∀ (a : BitVec 7) (bs : List Byte), bs.length ≤ 15 →
    expandLine (.send a bs) =
      expandLine (.loadD bs) ++ expandLine (.command (.fwr a (BitVec.ofNat 4 bs.length)))
end

