-- ==== Sys2Proof/Laws/State.lean ====
section
/-!
SUPPORT. What each named update of State does to each field: one lemma a field and update, true by unfolding.
-/

namespace Sys2Proof.Machine

/-! ### logEvent -/

@[simp] theorem State.logEvent_params (s : State) (e : Event) : (s.logEvent e).params = s.params := rfl
@[simp] theorem State.logEvent_cmd (s : State) (e : Event) : (s.logEvent e).cmd = s.cmd := rfl
@[simp] theorem State.logEvent_outcome (s : State) (e : Event) : (s.logEvent e).outcome = s.outcome := rfl
@[simp] theorem State.logEvent_busOpen (s : State) (e : Event) : (s.logEvent e).busOpen = s.busOpen := rfl
@[simp] theorem State.logEvent_count (s : State) (e : Event) : (s.logEvent e).count = s.count := rfl
@[simp] theorem State.logEvent_err (s : State) (e : Event) : (s.logEvent e).err = s.err := rfl
@[simp] theorem State.logEvent_ahtResult (s : State) (e : Event) : (s.logEvent e).ahtResult = s.ahtResult := rfl
@[simp] theorem State.logEvent_dcal (s : State) (e : Event) : (s.logEvent e).dcal = s.dcal := rfl
@[simp] theorem State.logEvent_busEn (s : State) (e : Event) : (s.logEvent e).busEn = s.busEn := rfl
@[simp] theorem State.logEvent_rxb (s : State) (e : Event) : (s.logEvent e).rxb = s.rxb := rfl
@[simp] theorem State.logEvent_ahtStatus (s : State) (e : Event) : (s.logEvent e).ahtStatus = s.ahtStatus := rfl
@[simp] theorem State.logEvent_rawIn (s : State) (e : Event) : (s.logEvent e).rawIn = s.rawIn := rfl
@[simp] theorem State.logEvent_rawH (s : State) (e : Event) : (s.logEvent e).rawH = s.rawH := rfl
@[simp] theorem State.logEvent_rawT (s : State) (e : Event) : (s.logEvent e).rawT = s.rawT := rfl
@[simp] theorem State.logEvent_hum (s : State) (e : Event) : (s.logEvent e).hum = s.hum := rfl
@[simp] theorem State.logEvent_temp (s : State) (e : Event) : (s.logEvent e).temp = s.temp := rfl
@[simp] theorem State.logEvent_data (s : State) (e : Event) : (s.logEvent e).data = s.data := rfl
@[simp] theorem State.logEvent_frame (s : State) (e : Event) : (s.logEvent e).frame = s.frame := rfl
@[simp] theorem State.logEvent_emu (s : State) (e : Event) : (s.logEvent e).emu = s.emu := rfl
@[simp] theorem State.logEvent_log (s : State) (e : Event) : (s.logEvent e).log = s.log ++ [e] := rfl
@[simp] theorem State.logEvent_errorRecord (s : State) (e : Event) : (s.logEvent e).errorRecord = s.errorRecord := rfl
@[simp] theorem State.logEvent_host (s : State) (e : Event) : (s.logEvent e).host = s.host := rfl
@[simp] theorem State.logEvent_result (s : State) (e : Event) : (s.logEvent e).result = s.result := rfl
@[simp] theorem State.logEvent_hung (s : State) (e : Event) : (s.logEvent e).hung = s.hung := rfl
@[simp] theorem State.logEvent_oracle (s : State) (e : Event) : (s.logEvent e).oracle = s.oracle := rfl

/-! ### raise -/

@[simp] theorem State.raise_params (s : State) (c : ErrorCode) (off : Offset) : (s.raise c off).params = s.params := rfl
@[simp] theorem State.raise_cmd (s : State) (c : ErrorCode) (off : Offset) : (s.raise c off).cmd = s.cmd := rfl
@[simp] theorem State.raise_outcome (s : State) (c : ErrorCode) (off : Offset) : (s.raise c off).outcome = s.outcome := rfl
@[simp] theorem State.raise_busOpen (s : State) (c : ErrorCode) (off : Offset) : (s.raise c off).busOpen = s.busOpen := rfl
@[simp] theorem State.raise_count (s : State) (c : ErrorCode) (off : Offset) : (s.raise c off).count = s.count := rfl
@[simp] theorem State.raise_err (s : State) (c : ErrorCode) (off : Offset) : (s.raise c off).err = firstError s.err c := rfl
@[simp] theorem State.raise_ahtResult (s : State) (c : ErrorCode) (off : Offset) : (s.raise c off).ahtResult = s.ahtResult := rfl
@[simp] theorem State.raise_dcal (s : State) (c : ErrorCode) (off : Offset) : (s.raise c off).dcal = s.dcal := rfl
@[simp] theorem State.raise_busEn (s : State) (c : ErrorCode) (off : Offset) : (s.raise c off).busEn = s.busEn := rfl
@[simp] theorem State.raise_rxb (s : State) (c : ErrorCode) (off : Offset) : (s.raise c off).rxb = s.rxb := rfl
@[simp] theorem State.raise_ahtStatus (s : State) (c : ErrorCode) (off : Offset) : (s.raise c off).ahtStatus = s.ahtStatus := rfl
@[simp] theorem State.raise_rawIn (s : State) (c : ErrorCode) (off : Offset) : (s.raise c off).rawIn = s.rawIn := rfl
@[simp] theorem State.raise_rawH (s : State) (c : ErrorCode) (off : Offset) : (s.raise c off).rawH = s.rawH := rfl
@[simp] theorem State.raise_rawT (s : State) (c : ErrorCode) (off : Offset) : (s.raise c off).rawT = s.rawT := rfl
@[simp] theorem State.raise_hum (s : State) (c : ErrorCode) (off : Offset) : (s.raise c off).hum = s.hum := rfl
@[simp] theorem State.raise_temp (s : State) (c : ErrorCode) (off : Offset) : (s.raise c off).temp = s.temp := rfl
@[simp] theorem State.raise_data (s : State) (c : ErrorCode) (off : Offset) : (s.raise c off).data = s.data := rfl
@[simp] theorem State.raise_frame (s : State) (c : ErrorCode) (off : Offset) : (s.raise c off).frame = s.frame := rfl
@[simp] theorem State.raise_emu (s : State) (c : ErrorCode) (off : Offset) : (s.raise c off).emu = s.emu := rfl
@[simp] theorem State.raise_log (s : State) (c : ErrorCode) (off : Offset) : (s.raise c off).log = s.log := rfl
@[simp] theorem State.raise_errorRecord (s : State) (c : ErrorCode) (off : Offset) : (s.raise c off).errorRecord = s.errorRecord ++ [(c, off)] := rfl
@[simp] theorem State.raise_host (s : State) (c : ErrorCode) (off : Offset) : (s.raise c off).host = s.host := rfl
@[simp] theorem State.raise_result (s : State) (c : ErrorCode) (off : Offset) : (s.raise c off).result = some (.err c) := rfl
@[simp] theorem State.raise_hung (s : State) (c : ErrorCode) (off : Offset) : (s.raise c off).hung = s.hung := rfl
@[simp] theorem State.raise_oracle (s : State) (c : ErrorCode) (off : Offset) : (s.raise c off).oracle = s.oracle := rfl

/-! ### complete -/

@[simp] theorem State.complete_params (s : State) (i : Instr) : (s.complete i).params = s.params := rfl
@[simp] theorem State.complete_cmd (s : State) (i : Instr) : (s.complete i).cmd = commandWord i := rfl
@[simp] theorem State.complete_outcome (s : State) (i : Instr) : (s.complete i).outcome = s.outcome := rfl
@[simp] theorem State.complete_busOpen (s : State) (i : Instr) : (s.complete i).busOpen = s.busOpen := rfl
@[simp] theorem State.complete_count (s : State) (i : Instr) : (s.complete i).count = s.count := rfl
@[simp] theorem State.complete_err (s : State) (i : Instr) : (s.complete i).err = s.err := rfl
@[simp] theorem State.complete_ahtResult (s : State) (i : Instr) : (s.complete i).ahtResult = s.ahtResult := rfl
@[simp] theorem State.complete_dcal (s : State) (i : Instr) : (s.complete i).dcal = s.dcal := rfl
@[simp] theorem State.complete_busEn (s : State) (i : Instr) : (s.complete i).busEn = s.busEn := rfl
@[simp] theorem State.complete_rxb (s : State) (i : Instr) : (s.complete i).rxb = s.rxb := rfl
@[simp] theorem State.complete_ahtStatus (s : State) (i : Instr) : (s.complete i).ahtStatus = s.ahtStatus := rfl
@[simp] theorem State.complete_rawIn (s : State) (i : Instr) : (s.complete i).rawIn = s.rawIn := rfl
@[simp] theorem State.complete_rawH (s : State) (i : Instr) : (s.complete i).rawH = s.rawH := rfl
@[simp] theorem State.complete_rawT (s : State) (i : Instr) : (s.complete i).rawT = s.rawT := rfl
@[simp] theorem State.complete_hum (s : State) (i : Instr) : (s.complete i).hum = s.hum := rfl
@[simp] theorem State.complete_temp (s : State) (i : Instr) : (s.complete i).temp = s.temp := rfl
@[simp] theorem State.complete_data (s : State) (i : Instr) : (s.complete i).data = s.data := rfl
@[simp] theorem State.complete_frame (s : State) (i : Instr) : (s.complete i).frame = s.frame := rfl
@[simp] theorem State.complete_emu (s : State) (i : Instr) : (s.complete i).emu = s.emu := rfl
@[simp] theorem State.complete_log (s : State) (i : Instr) : (s.complete i).log = s.log := rfl
@[simp] theorem State.complete_errorRecord (s : State) (i : Instr) : (s.complete i).errorRecord = s.errorRecord := rfl
@[simp] theorem State.complete_host (s : State) (i : Instr) : (s.complete i).host = s.host := rfl
@[simp] theorem State.complete_result (s : State) (i : Instr) : (s.complete i).result = some .ok := rfl
@[simp] theorem State.complete_hung (s : State) (i : Instr) : (s.complete i).hung = s.hung := rfl
@[simp] theorem State.complete_oracle (s : State) (i : Instr) : (s.complete i).oracle = s.oracle := rfl

/-! ### hang -/

@[simp] theorem State.hang_params (s : State) : s.hang.params = s.params := rfl
@[simp] theorem State.hang_cmd (s : State) : s.hang.cmd = s.cmd := rfl
@[simp] theorem State.hang_outcome (s : State) : s.hang.outcome = s.outcome := rfl
@[simp] theorem State.hang_busOpen (s : State) : s.hang.busOpen = s.busOpen := rfl
@[simp] theorem State.hang_count (s : State) : s.hang.count = s.count := rfl
@[simp] theorem State.hang_err (s : State) : s.hang.err = s.err := rfl
@[simp] theorem State.hang_ahtResult (s : State) : s.hang.ahtResult = s.ahtResult := rfl
@[simp] theorem State.hang_dcal (s : State) : s.hang.dcal = s.dcal := rfl
@[simp] theorem State.hang_busEn (s : State) : s.hang.busEn = s.busEn := rfl
@[simp] theorem State.hang_rxb (s : State) : s.hang.rxb = s.rxb := rfl
@[simp] theorem State.hang_ahtStatus (s : State) : s.hang.ahtStatus = s.ahtStatus := rfl
@[simp] theorem State.hang_rawIn (s : State) : s.hang.rawIn = s.rawIn := rfl
@[simp] theorem State.hang_rawH (s : State) : s.hang.rawH = s.rawH := rfl
@[simp] theorem State.hang_rawT (s : State) : s.hang.rawT = s.rawT := rfl
@[simp] theorem State.hang_hum (s : State) : s.hang.hum = s.hum := rfl
@[simp] theorem State.hang_temp (s : State) : s.hang.temp = s.temp := rfl
@[simp] theorem State.hang_data (s : State) : s.hang.data = s.data := rfl
@[simp] theorem State.hang_frame (s : State) : s.hang.frame = s.frame := rfl
@[simp] theorem State.hang_emu (s : State) : s.hang.emu = s.emu := rfl
@[simp] theorem State.hang_log (s : State) : s.hang.log = s.log := rfl
@[simp] theorem State.hang_errorRecord (s : State) : s.hang.errorRecord = s.errorRecord := rfl
@[simp] theorem State.hang_host (s : State) : s.hang.host = s.host := rfl
@[simp] theorem State.hang_result (s : State) : s.hang.result = none := rfl
@[simp] theorem State.hang_hung (s : State) : s.hang.hung = true := rfl
@[simp] theorem State.hang_oracle (s : State) : s.hang.oracle = s.oracle := rfl

/-! ### applyReset -/

@[simp] theorem State.applyReset_params (s : State) : s.applyReset.params = s.params := rfl
@[simp] theorem State.applyReset_cmd (s : State) : s.applyReset.cmd = (State.resetWith s.params).cmd := rfl
@[simp] theorem State.applyReset_outcome (s : State) : s.applyReset.outcome = (State.resetWith s.params).outcome := rfl
@[simp] theorem State.applyReset_busOpen (s : State) : s.applyReset.busOpen = (State.resetWith s.params).busOpen := rfl
@[simp] theorem State.applyReset_count (s : State) : s.applyReset.count = (State.resetWith s.params).count := rfl
@[simp] theorem State.applyReset_err (s : State) : s.applyReset.err = (State.resetWith s.params).err := rfl
@[simp] theorem State.applyReset_ahtResult (s : State) : s.applyReset.ahtResult = (State.resetWith s.params).ahtResult := rfl
@[simp] theorem State.applyReset_dcal (s : State) : s.applyReset.dcal = (State.resetWith s.params).dcal := rfl
@[simp] theorem State.applyReset_busEn (s : State) : s.applyReset.busEn = (State.resetWith s.params).busEn := rfl
@[simp] theorem State.applyReset_rxb (s : State) : s.applyReset.rxb = (State.resetWith s.params).rxb := rfl
@[simp] theorem State.applyReset_ahtStatus (s : State) : s.applyReset.ahtStatus = (State.resetWith s.params).ahtStatus := rfl
@[simp] theorem State.applyReset_rawIn (s : State) : s.applyReset.rawIn = (State.resetWith s.params).rawIn := rfl
@[simp] theorem State.applyReset_rawH (s : State) : s.applyReset.rawH = (State.resetWith s.params).rawH := rfl
@[simp] theorem State.applyReset_rawT (s : State) : s.applyReset.rawT = (State.resetWith s.params).rawT := rfl
@[simp] theorem State.applyReset_hum (s : State) : s.applyReset.hum = (State.resetWith s.params).hum := rfl
@[simp] theorem State.applyReset_temp (s : State) : s.applyReset.temp = (State.resetWith s.params).temp := rfl
@[simp] theorem State.applyReset_data (s : State) : s.applyReset.data = (State.resetWith s.params).data := rfl
@[simp] theorem State.applyReset_frame (s : State) : s.applyReset.frame = (State.resetWith s.params).frame := rfl
@[simp] theorem State.applyReset_emu (s : State) : s.applyReset.emu = (State.resetWith s.params).emu := rfl
@[simp] theorem State.applyReset_log (s : State) : s.applyReset.log = s.log ++ [.reset] := rfl
@[simp] theorem State.applyReset_errorRecord (s : State) : s.applyReset.errorRecord = s.errorRecord := rfl
@[simp] theorem State.applyReset_host (s : State) : s.applyReset.host = s.host := rfl
@[simp] theorem State.applyReset_result (s : State) : s.applyReset.result = (State.resetWith s.params).result := rfl
@[simp] theorem State.applyReset_hung (s : State) : s.applyReset.hung = (State.resetWith s.params).hung := rfl
@[simp] theorem State.applyReset_oracle (s : State) : s.applyReset.oracle = s.oracle := rfl

/-! ### resetWith -/

@[simp] theorem State.resetWith_params (p : Params) : (State.resetWith p).params = p := rfl
@[simp] theorem State.resetWith_cmd (p : Params) : (State.resetWith p).cmd = 0 := rfl
@[simp] theorem State.resetWith_outcome (p : Params) : (State.resetWith p).outcome = .ack := rfl
@[simp] theorem State.resetWith_busOpen (p : Params) : (State.resetWith p).busOpen = false := rfl
@[simp] theorem State.resetWith_count (p : Params) : (State.resetWith p).count = 0 := rfl
@[simp] theorem State.resetWith_err (p : Params) : (State.resetWith p).err = none := rfl
@[simp] theorem State.resetWith_ahtResult (p : Params) : (State.resetWith p).ahtResult = .none := rfl
@[simp] theorem State.resetWith_dcal (p : Params) : (State.resetWith p).dcal = false := rfl
@[simp] theorem State.resetWith_busEn (p : Params) : (State.resetWith p).busEn = false := rfl
@[simp] theorem State.resetWith_rxb (p : Params) : (State.resetWith p).rxb = 0 := rfl
@[simp] theorem State.resetWith_ahtStatus (p : Params) : (State.resetWith p).ahtStatus = 0 := rfl
@[simp] theorem State.resetWith_rawIn (p : Params) : (State.resetWith p).rawIn = 0 := rfl
@[simp] theorem State.resetWith_rawH (p : Params) : (State.resetWith p).rawH = 0 := rfl
@[simp] theorem State.resetWith_rawT (p : Params) : (State.resetWith p).rawT = 0 := rfl
@[simp] theorem State.resetWith_hum (p : Params) : (State.resetWith p).hum = 0 := rfl
@[simp] theorem State.resetWith_temp (p : Params) : (State.resetWith p).temp = 0 := rfl
@[simp] theorem State.resetWith_emu (p : Params) : (State.resetWith p).emu = Emulator.reset := rfl
@[simp] theorem State.resetWith_log (p : Params) : (State.resetWith p).log = [] := rfl
@[simp] theorem State.resetWith_errorRecord (p : Params) : (State.resetWith p).errorRecord = [] := rfl
@[simp] theorem State.resetWith_host (p : Params) : (State.resetWith p).host = [] := rfl
@[simp] theorem State.resetWith_result (p : Params) : (State.resetWith p).result = none := rfl
@[simp] theorem State.resetWith_hung (p : Params) : (State.resetWith p).hung = false := rfl

end Sys2Proof.Machine
end

