-- ==== Sys2Proof/Laws/Emulator.lean ====
section
/-!
SUPPORT. What the emulator's reactions can do (44_slave_emulator.md): their replies, the fields they leave alone, and the
emulator after a whole framed transaction.
-/

namespace Sys2Proof.Machine

/-- The emulator ACKs every written byte (R249). -/
@[simp] theorem Emulator.onWrite_reply (e : Emulator) (b : Byte) : (e.onWrite b).1 = .ack := by
  unfold Emulator.onWrite
  split
  · rfl
  · split <;> rfl

/-- The emulator delivers a byte to every read request (R249). -/
theorem Emulator.onRead_delivers (e : Emulator) (pol : AckPol) : ∃ b e', e.onRead pol = (.delivered b, e') := by
  unfold Emulator.onRead
  split
  · split <;> exact ⟨_, _, rfl⟩
  · exact ⟨_, _, rfl⟩
  · exact ⟨_, _, rfl⟩

/-- The emulator's reaction to a read request does not depend on the acknowledgement the master will give (R254). -/
theorem Emulator.onRead_pol (e : Emulator) (pol pol' : AckPol) : e.onRead pol = e.onRead pol' := rfl

@[simp] theorem Emulator.onWrites_nil (e : Emulator) : e.onWrites [] = e := rfl

@[simp] theorem Emulator.onWrites_cons (e : Emulator) (b : Byte) (bs : List Byte) :
    e.onWrites (b :: bs) = (e.onWrite b).2.onWrites bs := rfl

theorem Emulator.onWrites_append (e : Emulator) (bs cs : List Byte) :
    e.onWrites (bs ++ cs) = (e.onWrites bs).onWrites cs := by
  induction bs generalizing e with
  | nil => rfl
  | cons b bs ih => simp [ih]

/-- A written byte in Idle, outside an address phase, changes nothing (R246). -/
theorem Emulator.onWrite_idle {e : Emulator} (b : Byte) (ha : e.awaitAddr = false) (hs : e.st = .idle) :
    (e.onWrite b).2 = e := by
  simp [Emulator.onWrite, ha, hs]

/-- Written bytes in Idle, outside an address phase, change nothing (R246). -/
theorem Emulator.onWrites_idle {e : Emulator} (bs : List Byte) (ha : e.awaitAddr = false) (hs : e.st = .idle) :
    e.onWrites bs = e := by
  induction bs with
  | nil => rfl
  | cons b bs ih => rw [Emulator.onWrites_cons, Emulator.onWrite_idle b ha hs, ih]

/-- Only the sensor flags survive a Stop (R241). -/
theorem Emulator.onStop_congr {e e' : Emulator} (hc : e.calibrated = e'.calibrated)
    (hm : e.measTriggered = e'.measTriggered) : e.onStop = e'.onStop := by
  simp [Emulator.onStop, Emulator.resetTransaction, hc, hm]

/-- A read request changes no sensor flag and no address or command state (R247, R248). -/
theorem Emulator.onRead_frame (e : Emulator) (pol : AckPol) :
    (e.onRead pol).2 = { e with st := (e.onRead pol).2.st, sendCnt := (e.onRead pol).2.sendCnt } := by
  unfold Emulator.onRead
  split
  · split <;> rfl
  · rfl
  · rfl

@[simp] theorem Emulator.evaluate_st (e : Emulator) : e.evaluate.st = e.st := by
  unfold Emulator.evaluate Emulator.calibrate Emulator.trigger
  split
  · rfl
  · split <;> rfl
  · rfl

/-- The sensor flags are never cleared by a written byte (R260). -/
theorem Emulator.onWrite_keeps_calibrated {e : Emulator} (b : Byte) (h : e.calibrated = true) :
    (e.onWrite b).2.calibrated = true := by
  unfold Emulator.onWrite Emulator.onAddress Emulator.onCommandByte Emulator.evaluate Emulator.calibrate
    Emulator.trigger Emulator.append
  repeat' split
  all_goals simp_all

/-- The sensor flags are never cleared by a written byte (R260). -/
theorem Emulator.onWrite_keeps_measTriggered {e : Emulator} (b : Byte) (h : e.measTriggered = true) :
    (e.onWrite b).2.measTriggered = true := by
  unfold Emulator.onWrite Emulator.onAddress Emulator.onCommandByte Emulator.evaluate Emulator.calibrate
    Emulator.trigger Emulator.append
  repeat' split
  all_goals simp_all

end Sys2Proof.Machine
end

