-- ==== Sys2Proof/Laws/Bus.lean ====
section
/-!
SUPPORT. What the bus port exchanges and the framing procedures can do (40_byte_transfer.md R150 to R154;
41_transaction_framer.md R180, R181): the state after each, by endpoint, and the fields they leave alone.
-/

namespace Sys2Proof.Machine

/-! ### One exchange, by endpoint -/

theorem State.busStart_emulator {s : State} (h : s.params.endpoint = .emulator) :
    s.busStart = { s with log := s.log ++ [.start], emu := s.emu.onStart } := by
  simp [State.busStart, State.emuReact, h, State.logEvent]

theorem State.busStart_external {s : State} (h : s.params.endpoint = .external) :
    s.busStart = { s with log := s.log ++ [.start] } := by
  simp [State.busStart, State.emuReact, h, State.logEvent]

theorem State.busStop_emulator {s : State} (h : s.params.endpoint = .emulator) :
    s.busStop = { s with log := s.log ++ [.stop], emu := s.emu.onStop } := by
  simp [State.busStop, State.emuReact, h, State.logEvent]

theorem State.busStop_external {s : State} (h : s.params.endpoint = .external) :
    s.busStop = { s with log := s.log ++ [.stop] } := by
  simp [State.busStop, State.emuReact, h, State.logEvent]

theorem State.busWrite_emulator {s : State} (b : Byte) (h : s.params.endpoint = .emulator) :
    s.busWrite b = (.ack, { s with log := s.log ++ [.write b .ack], emu := (s.emu.onWrite b).2 }) := by
  simp [State.busWrite, State.endpointWrite, h, State.logEvent]

theorem State.busWrite_external {s : State} (b : Byte) {r : AckOutcome} {o : Oracle} (h : s.params.endpoint = .external)
    (hd : s.oracle.drawWrite = (r, o)) :
    s.busWrite b = (r, { s with log := s.log ++ [.write b r], oracle := o }) := by
  simp [State.busWrite, State.endpointWrite, h, hd, State.logEvent]

theorem State.busRead_emulator {s : State} (pol : AckPol) {r : ReadReply} {e : Emulator}
    (h : s.params.endpoint = .emulator) (hr : s.emu.onRead pol = (r, e)) :
    s.busRead pol = (r, { s with log := s.log ++ [.read pol r], emu := e }) := by
  simp [State.busRead, State.endpointRead, h, hr, State.logEvent]

theorem State.busRead_external {s : State} (pol : AckPol) {r : ReadReply} {o : Oracle}
    (h : s.params.endpoint = .external) (hd : s.oracle.drawRead = (r, o)) :
    s.busRead pol = (r, { s with log := s.log ++ [.read pol r], oracle := o }) := by
  simp [State.busRead, State.endpointRead, h, hd, State.logEvent]

theorem Oracle.drawWrite_cons {o : Oracle} {r : AckOutcome} {w : List AckOutcome} (h : o.writeReplies = r :: w) :
    o.drawWrite = (r, { o with writeReplies := w }) := by
  simp [Oracle.drawWrite, h]

theorem Oracle.drawRead_cons {o : Oracle} {r : ReadReply} {q : List ReadReply} (h : o.readReplies = r :: q) :
    o.drawRead = (r, { o with readReplies := q }) := by
  simp [Oracle.drawRead, h]

/-! ### The frame of the bus: only the log, the emulator and the oracle change -/

/-- Everything but the log, the emulator and the oracle is as it was. -/
def BusFrame (s t : State) : Prop := t = { s with log := t.log, emu := t.emu, oracle := t.oracle }

theorem BusFrame.refl (s : State) : BusFrame s s := rfl

theorem BusFrame.trans {s t u : State} (h : BusFrame s t) (k : BusFrame t u) : BusFrame s u := by
  unfold BusFrame at *
  rw [k, h]

theorem BusFrame.params {s t : State} (h : BusFrame s t) : t.params = s.params := by rw [h]
theorem BusFrame.cmd {s t : State} (h : BusFrame s t) : t.cmd = s.cmd := by rw [h]
theorem BusFrame.outcome {s t : State} (h : BusFrame s t) : t.outcome = s.outcome := by rw [h]
theorem BusFrame.busOpen {s t : State} (h : BusFrame s t) : t.busOpen = s.busOpen := by rw [h]
theorem BusFrame.count {s t : State} (h : BusFrame s t) : t.count = s.count := by rw [h]
theorem BusFrame.err {s t : State} (h : BusFrame s t) : t.err = s.err := by rw [h]
theorem BusFrame.ahtResult {s t : State} (h : BusFrame s t) : t.ahtResult = s.ahtResult := by rw [h]
theorem BusFrame.dcal {s t : State} (h : BusFrame s t) : t.dcal = s.dcal := by rw [h]
theorem BusFrame.busEn {s t : State} (h : BusFrame s t) : t.busEn = s.busEn := by rw [h]
theorem BusFrame.rxb {s t : State} (h : BusFrame s t) : t.rxb = s.rxb := by rw [h]
theorem BusFrame.ahtStatus {s t : State} (h : BusFrame s t) : t.ahtStatus = s.ahtStatus := by rw [h]
theorem BusFrame.rawIn {s t : State} (h : BusFrame s t) : t.rawIn = s.rawIn := by rw [h]
theorem BusFrame.rawH {s t : State} (h : BusFrame s t) : t.rawH = s.rawH := by rw [h]
theorem BusFrame.rawT {s t : State} (h : BusFrame s t) : t.rawT = s.rawT := by rw [h]
theorem BusFrame.hum {s t : State} (h : BusFrame s t) : t.hum = s.hum := by rw [h]
theorem BusFrame.temp {s t : State} (h : BusFrame s t) : t.temp = s.temp := by rw [h]
theorem BusFrame.data {s t : State} (h : BusFrame s t) : t.data = s.data := by rw [h]
theorem BusFrame.frame {s t : State} (h : BusFrame s t) : t.frame = s.frame := by rw [h]
theorem BusFrame.errorRecord {s t : State} (h : BusFrame s t) : t.errorRecord = s.errorRecord := by rw [h]
theorem BusFrame.host {s t : State} (h : BusFrame s t) : t.host = s.host := by rw [h]
theorem BusFrame.result {s t : State} (h : BusFrame s t) : t.result = s.result := by rw [h]
theorem BusFrame.hung {s t : State} (h : BusFrame s t) : t.hung = s.hung := by rw [h]

theorem State.busStart_frame (s : State) : BusFrame s s.busStart := by
  unfold BusFrame State.busStart State.emuReact
  split <;> rfl

theorem State.busStop_frame (s : State) : BusFrame s s.busStop := by
  unfold BusFrame State.busStop State.emuReact
  split <;> rfl

theorem State.busWrite_frame (s : State) (b : Byte) : BusFrame s (s.busWrite b).2 := by
  cases h : s.params.endpoint <;> simp [BusFrame, State.busWrite, State.endpointWrite, h, State.logEvent]

theorem State.busRead_frame (s : State) (pol : AckPol) : BusFrame s (s.busRead pol).2 := by
  cases h : s.params.endpoint <;> simp [BusFrame, State.busRead, State.endpointRead, h, State.logEvent]

theorem writePhase_frame (s : State) (sent : Nat) (bs : List Byte) : BusFrame s (writePhase s sent bs).state := by
  induction bs generalizing s sent with
  | nil => exact BusFrame.refl s
  | cons b bs ih =>
    have hb := s.busWrite_frame b
    unfold writePhase
    split
    · rename_i s' h
      rw [h] at hb
      exact hb.trans (ih s' _)
    · rename_i r s' _ h
      rw [h] at hb
      exact hb

theorem readPhase_frame (s : State) (out : List Byte) (n : Nat) : BusFrame s (readPhase s out n).state := by
  induction n generalizing s out with
  | zero => exact BusFrame.refl s
  | succ n ih =>
    have hb := s.busRead_frame (polFor n)
    unfold readPhase
    split
    · rename_i b s' h
      rw [h] at hb
      exact hb.trans (ih s' _)
    · rename_i s' h
      rw [h] at hb
      exact hb

theorem frameWrite_frame (s : State) (addr7 : BitVec 7) (bs : List Byte) :
    BusFrame s (frameWrite s addr7 bs).state := by
  have hb := s.busStart_frame.trans (s.busStart.busWrite_frame (addressByte addr7 .write))
  unfold frameWrite
  split
  · rename_i s' h
    rw [h] at hb
    exact (hb.trans (writePhase_frame s' 0 bs)).trans (State.busStop_frame _)
  · rename_i r s' _ h
    rw [h] at hb
    exact hb.trans (State.busStop_frame _)

theorem frameRead_frame (s : State) (addr7 : BitVec 7) (n : Nat) : BusFrame s (frameRead s addr7 n).state := by
  have hb := s.busStart_frame.trans (s.busStart.busWrite_frame (addressByte addr7 .read))
  unfold frameRead
  split
  · rename_i s' h
    rw [h] at hb
    exact (hb.trans (readPhase_frame s' [] n)).trans (State.busStop_frame _)
  · rename_i r s' _ h
    rw [h] at hb
    exact hb.trans (State.busStop_frame _)

/-! ### The phases of a framed transfer with the emulator -/

/-- With the emulator every data byte of a framed write is ACKed (R249). -/
theorem writePhase_emulator {s : State} (sent : Nat) (bs : List Byte) (h : s.params.endpoint = .emulator) :
    writePhase s sent bs =
      { outcome := .ack, count := sent + bs.length,
        state := { s with log := s.log ++ bs.map (fun b => .write b .ack), emu := s.emu.onWrites bs } } := by
  induction bs generalizing s sent with
  | nil => simp [writePhase]
  | cons b bs ih =>
    rw [writePhase, State.busWrite_emulator b h]
    simp only
    rw [ih (s := { s with log := s.log ++ [.write b .ack], emu := (s.emu.onWrite b).2 }) _ h]
    simp [List.append_assoc, Nat.add_assoc, Nat.add_comm bs.length]


/-- The emulator's own part of `n` read requests: the bytes it delivers and the state it ends in (R247, R248). -/
def Emulator.serve (e : Emulator) : Nat → List Byte × Emulator
  | 0 => ([], e)
  | n + 1 =>
    match e.onRead .ack with
    | (.delivered b, e') => (b :: (e'.serve n).1, (e'.serve n).2)
    | (.terr, e') => ([], e')

/-- The emulator serves as many bytes as are asked for (R249). -/
theorem Emulator.serve_length (e : Emulator) (n : Nat) : (e.serve n).1.length = n := by
  induction n generalizing e with
  | zero => rfl
  | succ n ih =>
    obtain ⟨b, e', h⟩ := e.onRead_delivers .ack
    simp [Emulator.serve, h, ih]

/-- The events of a data phase that has `n` bytes still to receive (R181). -/
def phaseEvents : List Byte → Nat → List Event
  | [], _ => []
  | b :: bs, n => .read (polFor (n - 1)) (.delivered b) :: phaseEvents bs (n - 1)

/-- With the emulator a framed read receives every byte (R249). -/
theorem readPhase_emulator {s : State} (out : List Byte) (n : Nat) (h : s.params.endpoint = .emulator) :
    readPhase s out n =
      { outcome := .ack, bytes := out ++ (s.emu.serve n).1, addrAcked := true,
        state := { s with log := s.log ++ phaseEvents (s.emu.serve n).1 n, emu := (s.emu.serve n).2 } } := by
  induction n generalizing s out with
  | zero => simp [readPhase, Emulator.serve, phaseEvents]
  | succ n ih =>
    obtain ⟨b, e', hr⟩ := s.emu.onRead_delivers .ack
    have hp : s.emu.onRead (polFor n) = (.delivered b, e') := hr
    rw [readPhase, State.busRead_emulator (polFor n) h hp]
    simp only
    rw [ih (s := { s with log := s.log ++ [.read (polFor n) (.delivered b)], emu := e' }) _ h]
    simp [Emulator.serve, hr, phaseEvents, List.append_assoc]

/-! ### The phases of a framed transfer with an external endpoint -/

/-- The data phase of a framed write whose bytes are all ACKed (R180). -/
theorem writePhase_external_acked {s : State} (sent : Nat) (bs : List Byte) {w : List AckOutcome}
    (h : s.params.endpoint = .external) (hw : s.oracle.writeReplies = List.replicate bs.length .ack ++ w) :
    writePhase s sent bs =
      { outcome := .ack, count := sent + bs.length,
        state := { s with log := s.log ++ bs.map (fun b => .write b .ack),
                          oracle := { s.oracle with writeReplies := w } } } := by
  induction bs generalizing s sent with
  | nil => simp [writePhase, ← show s.oracle.writeReplies = w by simpa using hw]
  | cons b bs ih =>
    have hd := Oracle.drawWrite_cons (o := s.oracle) (r := .ack) (w := List.replicate bs.length .ack ++ w)
      (by simpa [List.replicate_succ] using hw)
    rw [writePhase, State.busWrite_external b h hd]
    simp only
    rw [ih (s := { s with log := s.log ++ [.write b .ack],
                          oracle := { s.oracle with writeReplies := List.replicate bs.length .ack ++ w } }) _ h rfl]
    simp [List.append_assoc, Nat.add_assoc, Nat.add_comm bs.length]

/-- The data phase of a framed write whose byte `k` is the first that is not ACKed (R180). -/
theorem writePhase_external_failed {s : State} (sent : Nat) (bs : List Byte) {k : Nat} {r : AckOutcome}
    {w : List AckOutcome} (h : s.params.endpoint = .external) (hk : k < bs.length) (hr : r ≠ .ack)
    (hw : s.oracle.writeReplies = List.replicate k .ack ++ r :: w) :
    writePhase s sent bs =
      { outcome := r, count := sent + k,
        state := { s with log := s.log ++ (bs.take k).map (fun b => .write b .ack) ++ [.write (bs.getD k 0) r],
                          oracle := { s.oracle with writeReplies := w } } } := by
  induction bs generalizing s sent k with
  | nil => simp at hk
  | cons b bs ih =>
    cases k with
    | zero =>
      have hd := Oracle.drawWrite_cons (o := s.oracle) (r := r) (w := w) (by simpa using hw)
      rw [writePhase, State.busWrite_external b h hd]
      cases r <;> simp_all
    | succ k =>
      have hd := Oracle.drawWrite_cons (o := s.oracle) (r := .ack) (w := List.replicate k .ack ++ r :: w)
        (by simpa [List.replicate_succ] using hw)
      rw [writePhase, State.busWrite_external b h hd]
      simp only
      rw [ih (s := { s with log := s.log ++ [.write b .ack],
                            oracle := { s.oracle with writeReplies := List.replicate k .ack ++ r :: w } }) _ h
        (by simpa using hk) rfl]
      simp [List.append_assoc]
      omega

/-- The data phase of a framed read whose bytes are all delivered (R181). -/
theorem readPhase_external_delivered {s : State} (out bs : List Byte) {q : List ReadReply}
    (h : s.params.endpoint = .external) (hq : s.oracle.readReplies = bs.map .delivered ++ q) :
    readPhase s out bs.length =
      { outcome := .ack, bytes := out ++ bs, addrAcked := true,
        state := { s with log := s.log ++ phaseEvents bs bs.length,
                          oracle := { s.oracle with readReplies := q } } } := by
  induction bs generalizing s out with
  | nil => simp [readPhase, phaseEvents, ← show s.oracle.readReplies = q by simpa using hq]
  | cons b bs ih =>
    have hd := Oracle.drawRead_cons (o := s.oracle) (r := .delivered b) (q := bs.map .delivered ++ q)
      (by simpa using hq)
    rw [List.length_cons, readPhase, State.busRead_external _ h hd]
    simp only
    rw [ih (s := { s with log := s.log ++ [.read (polFor bs.length) (.delivered b)],
                          oracle := { s.oracle with readReplies := bs.map .delivered ++ q } }) _ h rfl]
    simp [phaseEvents, List.append_assoc]

/-- The data phase of a framed read of `n` bytes that ends in a TERR after the bytes `bs` (R181). -/
theorem readPhase_external_terr {s : State} (out bs : List Byte) {n : Nat} {q : List ReadReply}
    (h : s.params.endpoint = .external) (hn : bs.length < n)
    (hq : s.oracle.readReplies = bs.map .delivered ++ .terr :: q) :
    readPhase s out n =
      { outcome := .terr, bytes := out ++ bs, addrAcked := true,
        state := { s with log := s.log ++ phaseEvents bs n ++ [.read (polFor (n - bs.length - 1)) .terr],
                          oracle := { s.oracle with readReplies := q } } } := by
  induction bs generalizing s out n with
  | nil =>
    cases n with
    | zero => simp at hn
    | succ n =>
      have hd := Oracle.drawRead_cons (o := s.oracle) (r := .terr) (q := q) (by simpa using hq)
      rw [readPhase, State.busRead_external _ h hd]
      simp [phaseEvents]
  | cons b bs ih =>
    cases n with
    | zero => simp at hn
    | succ n =>
      have hd := Oracle.drawRead_cons (o := s.oracle) (r := .delivered b) (q := bs.map .delivered ++ .terr :: q)
        (by simpa using hq)
      rw [readPhase, State.busRead_external _ h hd]
      simp only
      rw [ih (s := { s with log := s.log ++ [.read (polFor n) (.delivered b)],
                            oracle := { s.oracle with readReplies := bs.map .delivered ++ .terr :: q } }) _ h
        (by simpa using hn) rfl]
      simp [phaseEvents, List.append_assoc]

/-! ### Whole framed transfers -/

/-- FrameWrite with the emulator (R180, R249). -/
theorem frameWrite_emulator {s : State} (addr7 : BitVec 7) (bs : List Byte) (h : s.params.endpoint = .emulator) :
    frameWrite s addr7 bs =
      { outcome := .ack, count := bs.length,
        state := { s with
          log := s.log ++ [.start, .write (addressByte addr7 .write) .ack] ++ bs.map (fun b => .write b .ack) ++ [.stop]
          emu := (s.emu.onStart.onWrites (addressByte addr7 .write :: bs)).onStop } } := by
  rw [frameWrite, State.busStart_emulator h]
  rw [State.busWrite_emulator _ (by exact h)]
  simp only
  rw [writePhase_emulator 0 bs (by exact h), State.busStop_emulator (by exact h)]
  simp [List.append_assoc]

/-- FrameRead with the emulator (R181, R249). -/
theorem frameRead_emulator {s : State} (addr7 : BitVec 7) (n : Nat) (h : s.params.endpoint = .emulator) :
    frameRead s addr7 n =
      { outcome := .ack, bytes := ((s.emu.onStart.onWrite (addressByte addr7 .read)).2.serve n).1, addrAcked := true,
        state := { s with
          log := s.log ++ [.start, .write (addressByte addr7 .read) .ack] ++
            phaseEvents ((s.emu.onStart.onWrite (addressByte addr7 .read)).2.serve n).1 n ++ [.stop]
          emu := ((s.emu.onStart.onWrite (addressByte addr7 .read)).2.serve n).2.onStop } } := by
  rw [frameRead, State.busStart_emulator h]
  rw [State.busWrite_emulator _ (by exact h)]
  simp only
  rw [readPhase_emulator [] n (by exact h), State.busStop_emulator (by exact h)]
  simp [List.append_assoc]

/-- FrameWrite with an external endpoint that does not ACK the address byte (R180). -/
theorem frameWrite_external_address {s : State} (addr7 : BitVec 7) (bs : List Byte) {r : AckOutcome}
    {w : List AckOutcome} (h : s.params.endpoint = .external) (hr : r ≠ .ack)
    (hw : s.oracle.writeReplies = r :: w) :
    frameWrite s addr7 bs =
      { outcome := r, count := 0,
        state := { s with
          log := s.log ++ [.start, .write (addressByte addr7 .write) r, .stop]
          oracle := { s.oracle with writeReplies := w } } } := by
  rw [frameWrite, State.busStart_external h]
  rw [State.busWrite_external (s := { s with log := s.log ++ [.start] }) _ h (Oracle.drawWrite_cons hw)]
  cases r
  · exact absurd rfl hr
  all_goals
    simp only
    rw [State.busStop_external (by exact h)]
    simp

/-- FrameWrite with an external endpoint that ACKs every byte (R180). -/
theorem frameWrite_external_acked {s : State} (addr7 : BitVec 7) (bs : List Byte)
    {w : List AckOutcome} (h : s.params.endpoint = .external)
    (hw : s.oracle.writeReplies = .ack :: (List.replicate bs.length .ack ++ w)) :
    frameWrite s addr7 bs =
      { outcome := .ack, count := bs.length,
        state := { s with
          log := s.log ++ [.start, .write (addressByte addr7 .write) .ack] ++ bs.map (fun b => .write b .ack) ++ [.stop]
          oracle := { s.oracle with writeReplies := w } } } := by
  rw [frameWrite, State.busStart_external h]
  rw [State.busWrite_external (s := { s with log := s.log ++ [.start] }) _ h (Oracle.drawWrite_cons hw)]
  simp only
  rw [writePhase_external_acked 0 bs (by exact h) rfl, State.busStop_external (by exact h)]
  simp [List.append_assoc]

/-- FrameWrite with an external endpoint that fails data byte `k` (R180). -/
theorem frameWrite_external_failed {s : State} (addr7 : BitVec 7) (bs : List Byte) {k : Nat} {r : AckOutcome}
    {w : List AckOutcome} (h : s.params.endpoint = .external) (hk : k < bs.length) (hr : r ≠ .ack)
    (hw : s.oracle.writeReplies = .ack :: (List.replicate k .ack ++ r :: w)) :
    frameWrite s addr7 bs =
      { outcome := r, count := k,
        state := { s with
          log := s.log ++ [.start, .write (addressByte addr7 .write) .ack] ++
            (bs.take k).map (fun b => .write b .ack) ++ [.write (bs.getD k 0) r, .stop]
          oracle := { s.oracle with writeReplies := w } } } := by
  rw [frameWrite, State.busStart_external h]
  rw [State.busWrite_external (s := { s with log := s.log ++ [.start] }) _ h (Oracle.drawWrite_cons hw)]
  simp only
  rw [writePhase_external_failed 0 bs (by exact h) hk hr rfl, State.busStop_external (by exact h)]
  simp [List.append_assoc]

/-- FrameRead with an external endpoint that does not ACK the address byte (R181). -/
theorem frameRead_external_address {s : State} (addr7 : BitVec 7) (n : Nat) {r : AckOutcome}
    {w : List AckOutcome} (h : s.params.endpoint = .external) (hr : r ≠ .ack)
    (hw : s.oracle.writeReplies = r :: w) :
    frameRead s addr7 n =
      { outcome := r, bytes := [], addrAcked := false,
        state := { s with
          log := s.log ++ [.start, .write (addressByte addr7 .read) r, .stop]
          oracle := { s.oracle with writeReplies := w } } } := by
  rw [frameRead, State.busStart_external h]
  rw [State.busWrite_external (s := { s with log := s.log ++ [.start] }) _ h (Oracle.drawWrite_cons hw)]
  cases r
  · exact absurd rfl hr
  all_goals
    simp only
    rw [State.busStop_external (by exact h)]
    simp

/-- FrameRead with an external endpoint that delivers every byte (R181). -/
theorem frameRead_external_delivered {s : State} (addr7 : BitVec 7) (bs : List Byte)
    {w : List AckOutcome} {q : List ReadReply} (h : s.params.endpoint = .external)
    (hw : s.oracle.writeReplies = .ack :: w) (hq : s.oracle.readReplies = bs.map .delivered ++ q) :
    frameRead s addr7 bs.length =
      { outcome := .ack, bytes := bs, addrAcked := true,
        state := { s with
          log := s.log ++ [.start, .write (addressByte addr7 .read) .ack] ++ phaseEvents bs bs.length ++ [.stop]
          oracle := { s.oracle with writeReplies := w, readReplies := q } } } := by
  rw [frameRead, State.busStart_external h]
  rw [State.busWrite_external (s := { s with log := s.log ++ [.start] }) _ h (Oracle.drawWrite_cons hw)]
  simp only
  rw [readPhase_external_delivered [] bs (by exact h) (by exact hq), State.busStop_external (by exact h)]
  simp [List.append_assoc]

/-- FrameRead with an external endpoint that fails the byte after `bs` (R181). -/
theorem frameRead_external_terr {s : State} (addr7 : BitVec 7) (bs : List Byte) {n : Nat}
    {w : List AckOutcome} {q : List ReadReply} (h : s.params.endpoint = .external) (hn : bs.length < n)
    (hw : s.oracle.writeReplies = .ack :: w) (hq : s.oracle.readReplies = bs.map .delivered ++ .terr :: q) :
    frameRead s addr7 n =
      { outcome := .terr, bytes := bs, addrAcked := true,
        state := { s with
          log := s.log ++ [.start, .write (addressByte addr7 .read) .ack] ++ phaseEvents bs n ++
            [.read (polFor (n - bs.length - 1)) .terr, .stop]
          oracle := { s.oracle with writeReplies := w, readReplies := q } } } := by
  rw [frameRead, State.busStart_external h]
  rw [State.busWrite_external (s := { s with log := s.log ++ [.start] }) _ h (Oracle.drawWrite_cons hw)]
  simp only
  rw [readPhase_external_terr [] bs (by exact h) hn (by exact hq), State.busStop_external (by exact h)]
  simp [List.append_assoc]

end Sys2Proof.Machine
end

