-- ==== Sys2Proof/Laws/Step.lean ====
section
/-!
SUPPORT. What a step can do, said once: the shape of a host write and of a step, and the checks of a bus command.
-/

namespace Sys2Proof.Machine

theorem requireBus_enabled {s : State} (run : State → Host.Outcome State Fault Refusal) (h : s.busEn = true) :
    requireBus s run = run s := by
  simp [requireBus, h]

theorem requireBus_disabled {s : State} (run : State → Host.Outcome State Fault Refusal) (h : s.busEn = false) :
    requireBus s run = .next (s.raise .busUnconfigured cmdOffset) := by
  simp [requireBus, h]

theorem requireOpen_open {s : State} (run : State → Host.Outcome State Fault Refusal) (h : s.busOpen = true) :
    requireOpen s run = run s := by
  simp [requireOpen, h]

theorem requireOpen_closed {s : State} (run : State → Host.Outcome State Fault Refusal) (h : s.busOpen = false) :
    requireOpen s run = .next (s.raise .notOpen cmdOffset) := by
  simp [requireOpen, h]

/-- START with the bus enabled (R160). -/
theorem execStart_enabled {s : State} (h : s.busEn = true) :
    execStart s = .next (State.complete { s.busStart with busOpen := true } .start) := by
  rw [execStart, requireBus_enabled _ h]

/-- STOP with the bus enabled (R161). -/
theorem execStop_enabled {s : State} (h : s.busEn = true) :
    execStop s = .next (State.complete { s.busStop with busOpen := false } .stop) := by
  rw [execStop, requireBus_enabled _ h]

/-- WRB that passes its checks (R162). -/
theorem execWrb_passed {s : State} (val : Byte) (h : s.busEn = true) (ho : s.busOpen = true) :
    execWrb val s = .next (State.complete { (s.busWrite val).2 with outcome := (s.busWrite val).1 } (.wrb val)) := by
  rw [execWrb, requireBus_enabled _ h, requireOpen_open _ ho]

/-- RDB that passes its checks (R163). -/
theorem execRdb_passed {s : State} (pol : AckPol) (h : s.busEn = true) (ho : s.busOpen = true) :
    execRdb pol s = .next (State.complete { (s.busRead pol).2 with
      rxb := rxbAfter (s.busRead pol).2.rxb (s.busRead pol).1
      outcome := readOutcome pol (s.busRead pol).1 } (.rdb pol)) := by
  rw [execRdb, requireBus_enabled _ h, requireOpen_open _ ho]

/-- FWR with the bus enabled (R184). -/
theorem execFwr_enabled {s : State} {w : FramedWrite} (addr7 : BitVec 7) (len : BitVec 4) (h : s.busEn = true)
    (hw : frameWrite s addr7 (dataBytes s len) = w) :
    execFwr addr7 len s = .next (State.complete
      { w.state with outcome := w.outcome, count := countField w.count, busOpen := false } (.fwr addr7 len)) := by
  simp only [execFwr, requireBus_enabled _ h, hw]

/-- FRD with the bus enabled (R185). -/
theorem execFrd_enabled {s : State} {r : FramedRead} (addr7 : BitVec 7) (len : BitVec 4) (h : s.busEn = true)
    (hr : frameRead s addr7 len.toNat = r) :
    execFrd addr7 len s = .next (State.complete
      { r.state with
        data := storeBytes r.state.data r.bytes
        outcome := r.outcome
        count := countField r.bytes.length
        busOpen := false }
      (.frd addr7 len)) := by
  simp only [execFrd, requireBus_enabled _ h, hr]

/-- A write of CMD runs the decoder (R86, R115). -/
theorem regWrite_cmd (s : State) (v : Word) : regWrite s 0x00 v = executeWord s v := rfl

/-- A host action in a state that does not hang is the next step (R88). -/
theorem step_cons {s : State} {a : HostAction} {rest : List HostAction} (hh : s.hung = false) (hs : s.host = a :: rest) :
    step s = hostStep { s with host := rest } a := by
  simp [step, hh, hs]

/-- Every way a step can go (R85, R86, R88, R115, R320, R321, R329). -/
theorem step_cases (s : State) :
    (s.hung = true ∧ step s = .fault .delayUnanswered) ∨
    (s.hung = false ∧ s.host = [] ∧ step s = .next s) ∨
    ∃ a rest, s.hung = false ∧ s.host = a :: rest ∧
      ((∃ off, a = .regRead off ∧ step s = .next (State.regRead { s with host := rest } off)) ∨
       (∃ off v c, a = .regWrite off v ∧ step s = .next (State.raise { s with host := rest } c off)) ∨
       (∃ off v r, a = .regWrite off v ∧ regAt off = some r ∧ isReadOnly r = false ∧ r ≠ .cmd ∧
          step s = .next (State.storeReg { s with host := rest } r v)) ∨
       (∃ off v i, a = .regWrite off v ∧ regAt off = some .cmd ∧ decode (.cmd32 v) = .ok i ∧
          step s = exec i { s with host := rest }) ∨
       (a = .answerDelay ∧ step s = .next { s with host := rest }) ∨
       (a = .reset ∧ step s = .next (State.applyReset { s with host := rest }))) := by
  rcases Bool.eq_false_or_eq_true s.hung with hh | hh
  · exact .inl ⟨hh, by simp [step, hh]⟩
  · refine .inr ?_
    cases hs : s.host with
    | nil => exact .inl ⟨hh, rfl, by simp [step, hh, hs]⟩
    | cons a rest =>
      refine .inr ⟨a, rest, hh, rfl, ?_⟩
      rw [step_cons hh hs]
      cases a with
      | regRead off => exact .inl ⟨off, rfl, rfl⟩
      | answerDelay => exact .inr (.inr (.inr (.inr (.inl ⟨rfl, rfl⟩))))
      | reset => exact .inr (.inr (.inr (.inr (.inr ⟨rfl, rfl⟩))))
      | regWrite off v =>
        cases hr : regAt off with
        | none => exact .inr (.inl ⟨off, v, .unmapped, rfl, by simp [hostStep, regWrite, hr]⟩)
        | some r =>
          cases hro : isReadOnly r with
          | true => exact .inr (.inl ⟨off, v, .readOnly, rfl, by simp [hostStep, regWrite, hr, hro]⟩)
          | false =>
            by_cases hc : r = .cmd
            · subst hc
              cases hd : decode (.cmd32 v) with
              | ok i =>
                exact .inr (.inr (.inr (.inl ⟨off, v, i, rfl, hr, hd, by
                  simp [hostStep, regWrite, hr, hro, executeWord, hd]⟩)))
              | error e =>
                have ho : off = cmdOffset := by
                  have hinv : ∀ n : Fin 256, regAt (BitVec.ofNat 8 n.val) = some .cmd → n.val = 0 := by decide +kernel
                  have := hinv ⟨off.toNat, off.isLt⟩ (by simpa using hr)
                  exact BitVec.eq_of_toNat_eq this
                subst ho
                exact .inr (.inl ⟨cmdOffset, v, .illegalCmd, rfl, by
                  simp only [hostStep, regWrite, hr, hro, executeWord, hd, if_true, Bool.false_eq_true, if_false]⟩)
            · exact .inr (.inr (.inl ⟨off, v, r, rfl, hr, hro, hc, by simp [hostStep, regWrite, hr, hro, hc]⟩))

end Sys2Proof.Machine
end

