-- ==== Sys2Proof/Laws/Aht20.lean ====
section
/-!
SUPPORT. The three ends of BEGIN and MEASURE (42_aht20_protocol.md R200, R203, R205): the write fails, the host answers the
delay, or it never does.
-/

namespace Sys2Proof.Machine

/-- The delay is answered when the answer is the host's next action (R200). -/
theorem hostDelay_answered {s : State} (ms : Nat) {rest : List HostAction} (h : s.host = .answerDelay :: rest) :
    hostDelay s ms = .answered { s with log := s.log ++ [.delay ms], host := rest } := by
  simp [hostDelay, h, State.logEvent]

/-- Otherwise the delay is never answered (R329). -/
theorem hostDelay_never {s : State} (ms : Nat) (h : ∀ rest, s.host ≠ .answerDelay :: rest) :
    hostDelay s ms = .never { s with log := s.log ++ [.delay ms] } := by
  unfold hostDelay
  split
  · rename_i rest hr
    exact absurd hr (h rest)
  all_goals rfl

/-- BEGIN whose calibrate write fails (R203). -/
theorem execBegin_failed {s : State} {w : FramedWrite} (hb : s.busEn = true)
    (hw : frameWrite s slaveAddr7 calCmd = w) (ho : w.outcome ≠ .ack) :
    execBegin s = .next (State.complete { w.report with ahtResult := .transportAbsent } .begin) := by
  simp [execBegin, requireBus_enabled _ hb, hw, ho]

/-- BEGIN whose delay is answered (R203). -/
theorem execBegin_answered {s : State} {w : FramedWrite} {rest : List HostAction} (hb : s.busEn = true)
    (hw : frameWrite s slaveAddr7 calCmd = w) (ho : w.outcome = .ack) (hh : w.state.host = .answerDelay :: rest) :
    execBegin s = .next ((beginStatusRead
      { w.report with log := w.state.log ++ [.delay s.params.delayBeginMs], host := rest }).complete .begin) := by
  have hr : w.report.host = .answerDelay :: rest := hh
  simp only [execBegin, requireBus_enabled _ hb, hw, ho, if_true]
  rw [hostDelay_answered _ hr]
  rfl

/-- BEGIN whose delay is never answered (R329). -/
theorem execBegin_never {s : State} {w : FramedWrite} (hb : s.busEn = true)
    (hw : frameWrite s slaveAddr7 calCmd = w) (ho : w.outcome = .ack)
    (hh : ∀ rest, w.state.host ≠ .answerDelay :: rest) :
    execBegin s = .next
      (State.hang { w.report with log := w.state.log ++ [.delay s.params.delayBeginMs] }) := by
  have hr : ∀ rest, w.report.host ≠ .answerDelay :: rest := hh
  simp only [execBegin, requireBus_enabled _ hb, hw, ho, if_true]
  rw [hostDelay_never _ hr]
  rfl

/-- MEASURE whose trigger write fails (R205). -/
theorem execMeasure_failed {s : State} {w : FramedWrite} (hb : s.busEn = true)
    (hw : frameWrite s slaveAddr7 trigCmd = w) (ho : w.outcome ≠ .ack) :
    execMeasure s = .next (State.complete { w.report with ahtResult := .transportAbsent } .measure) := by
  simp [execMeasure, requireBus_enabled _ hb, hw, ho]

/-- MEASURE whose delay is answered (R205). -/
theorem execMeasure_answered {s : State} {w : FramedWrite} {rest : List HostAction} (hb : s.busEn = true)
    (hw : frameWrite s slaveAddr7 trigCmd = w) (ho : w.outcome = .ack) (hh : w.state.host = .answerDelay :: rest) :
    execMeasure s = .next ((measureRead
      { w.report with log := w.state.log ++ [.delay s.params.delayMeasMs], host := rest }).complete .measure) := by
  have hr : w.report.host = .answerDelay :: rest := hh
  simp only [execMeasure, requireBus_enabled _ hb, hw, ho, if_true]
  rw [hostDelay_answered _ hr]
  rfl

/-- MEASURE whose delay is never answered (R329). -/
theorem execMeasure_never {s : State} {w : FramedWrite} (hb : s.busEn = true)
    (hw : frameWrite s slaveAddr7 trigCmd = w) (ho : w.outcome = .ack)
    (hh : ∀ rest, w.state.host ≠ .answerDelay :: rest) :
    execMeasure s = .next
      (State.hang { w.report with log := w.state.log ++ [.delay s.params.delayMeasMs] }) := by
  have hr : ∀ rest, w.report.host ≠ .answerDelay :: rest := hh
  simp only [execMeasure, requireBus_enabled _ hb, hw, ho, if_true]
  rw [hostDelay_never _ hr]
  rfl

/-- The status read of BEGIN that receives its byte (R203). -/
theorem beginStatusRead_received {s : State} {r : FramedRead} {b : Byte} {bs : List Byte}
    (hr : frameRead s slaveAddr7 1 = r) (ho : r.outcome = .ack) (hb : r.bytes = b :: bs) :
    beginStatusRead s = { r.report with ahtStatus := b, ahtResult := beginResult b } := by
  simp only [beginStatusRead, hr, ho, hb]

/-- The status read of BEGIN that fails (R203). -/
theorem beginStatusRead_failed {s : State} {r : FramedRead}
    (hr : frameRead s slaveAddr7 1 = r) (ho : r.outcome ≠ .ack) :
    beginStatusRead s = { r.report with ahtResult := .transportAbsent } := by
  simp only [beginStatusRead, hr]
  split
  · rename_i h _
    exact absurd h ho
  · rfl

/-- The status read of BEGIN reports its framed read and changes AHT_RESULT and AHT_STATUS beside it (R203). -/
theorem beginStatusRead_frame (s : State) :
    beginStatusRead s = { (frameRead s slaveAddr7 1).report with
      ahtResult := (beginStatusRead s).ahtResult, ahtStatus := (beginStatusRead s).ahtStatus } := by
  unfold beginStatusRead
  dsimp only
  split <;> rfl

/-- The 6-byte read of MEASURE (R205). -/
theorem measureRead_of {s : State} {r : FramedRead} (hr : frameRead s slaveAddr7 6 = r) :
    measureRead s = { r.report with
      frame := storeBytes r.state.frame r.bytes
      ahtResult := measureResult r.addrAcked r.bytes.length } := by
  simp only [measureRead, hr]

end Sys2Proof.Machine
end

