-- ==== Sys2Proof/Laws/Trace.lean ====
section
/-!
SUPPORT. The bus as the event log tells it (10_state.md R59, R60): what each exchange, each framing procedure and each host
command adds to the log, and the emulator as the reader of what was added.
-/

namespace Sys2Proof.Machine

/-- Between `s` and `t` exactly the events `new` were logged, and the emulator reacted to exactly these. -/
structure BusTrace (s t : State) (new : List Event) : Prop where
  log : t.log = s.log ++ new
  params : t.params = s.params
  emulator : s.params.endpoint = .emulator → t.emu = new.foldl Emulator.react s.emu
  external : s.params.endpoint = .external → t.emu = s.emu
  replies : s.params.endpoint = .emulator → ∀ e ∈ new, e.isFailure = false
  noReset : Event.reset ∉ new

theorem BusTrace.refl (s : State) : BusTrace s s [] :=
  ⟨by simp, rfl, fun _ => rfl, fun _ => rfl, by simp, by simp⟩

theorem BusTrace.trans {s t u : State} {n m : List Event} (h : BusTrace s t n) (k : BusTrace t u m) :
    BusTrace s u (n ++ m) where
  log := by rw [k.log, h.log, List.append_assoc]
  params := by rw [k.params, h.params]
  emulator he := by rw [k.emulator (by rw [h.params, he]), h.emulator he, List.foldl_append]
  external he := by rw [k.external (by rw [h.params, he]), h.external he]
  replies he e hm := by
    rcases List.mem_append.1 hm with hm | hm
    · exact h.replies he e hm
    · exact k.replies (by rw [h.params, he]) e hm
  noReset hm := (List.mem_append.1 hm).elim h.noReset k.noReset

/-- A state that differs in no log entry, emulator state or parameter has the same trace. -/
theorem BusTrace.congr {s t u : State} {n : List Event} (h : BusTrace s t n) (hl : u.log = t.log) (he : u.emu = t.emu)
    (hp : u.params = t.params) : BusTrace s u n :=
  ⟨hl.trans h.log, hp.trans h.params, fun k => he.trans (h.emulator k), fun k => he.trans (h.external k), h.replies,
    h.noReset⟩

theorem State.busStart_trace (s : State) : BusTrace s s.busStart [.start] := by
  cases h : s.params.endpoint with
  | emulator =>
    rw [State.busStart_emulator h]
    exact ⟨rfl, rfl, fun _ => rfl, fun k => by simp [h] at k, by simp [Event.isFailure], by simp⟩
  | external =>
    rw [State.busStart_external h]
    exact ⟨rfl, rfl, fun k => by simp [h] at k, fun _ => rfl, by simp [Event.isFailure], by simp⟩

theorem State.busStop_trace (s : State) : BusTrace s s.busStop [.stop] := by
  cases h : s.params.endpoint with
  | emulator =>
    rw [State.busStop_emulator h]
    exact ⟨rfl, rfl, fun _ => rfl, fun k => by simp [h] at k, by simp [Event.isFailure], by simp⟩
  | external =>
    rw [State.busStop_external h]
    exact ⟨rfl, rfl, fun k => by simp [h] at k, fun _ => rfl, by simp [Event.isFailure], by simp⟩

theorem State.busWrite_trace (s : State) (b : Byte) :
    BusTrace s (s.busWrite b).2 [.write b (s.busWrite b).1] := by
  cases h : s.params.endpoint with
  | emulator =>
    rw [State.busWrite_emulator b h]
    exact ⟨rfl, rfl, fun _ => rfl, fun k => by simp [h] at k, by simp [Event.isFailure], by simp⟩
  | external =>
    rw [State.busWrite_external b h rfl]
    exact ⟨rfl, rfl, fun k => by simp [h] at k, fun _ => rfl, fun k => by simp [h] at k, by simp⟩

theorem State.busRead_trace (s : State) (pol : AckPol) :
    BusTrace s (s.busRead pol).2 [.read pol (s.busRead pol).1] := by
  cases h : s.params.endpoint with
  | emulator =>
    obtain ⟨b, e, hr⟩ := s.emu.onRead_delivers pol
    rw [State.busRead_emulator pol h hr]
    exact ⟨rfl, rfl, fun _ => by simp [Emulator.react, hr], fun k => by simp [h] at k, by simp [Event.isFailure], by simp⟩
  | external =>
    rw [State.busRead_external pol h rfl]
    exact ⟨rfl, rfl, fun k => by simp [h] at k, fun _ => rfl, fun k => by simp [h] at k, by simp⟩

/-- An event of the data of a transaction, which opens and closes nothing: a byte, or a delay. -/
def Event.isInner : Event → Bool
  | .write _ _ | .read _ _ | .delay _ => true
  | .start | .stop | .reset => false

/-- Inner events open and close no transaction (R36). -/
theorem foldl_openAfter_inner {mid : List Event} (o : Bool) (h : ∀ e ∈ mid, e.isInner = true) :
    mid.foldl openAfter o = o := by
  induction mid generalizing o with
  | nil => rfl
  | cons e mid ih =>
    have he := h e (by simp)
    rw [List.foldl_cons, ih _ (fun x hx => h x (by simp [hx]))]
    cases e <;> simp_all [Event.isInner, openAfter]

theorem writePhase_trace (s : State) (sent : Nat) (bs : List Byte) :
    ∃ mid, BusTrace s (writePhase s sent bs).state mid ∧ ∀ e ∈ mid, e.isInner = true := by
  induction bs generalizing s sent with
  | nil => exact ⟨[], BusTrace.refl s, by simp⟩
  | cons b bs ih =>
    have hb := s.busWrite_trace b
    unfold writePhase
    split
    · rename_i s' h
      rw [h] at hb
      obtain ⟨mid, hm, hi⟩ := ih s' (sent + 1)
      exact ⟨_, hb.trans hm, by simpa [Event.isInner] using hi⟩
    · rename_i r s' _ h
      rw [h] at hb
      exact ⟨_, hb, by simp [Event.isInner]⟩

theorem readPhase_trace (s : State) (out : List Byte) (n : Nat) :
    ∃ mid, BusTrace s (readPhase s out n).state mid ∧ ∀ e ∈ mid, e.isInner = true := by
  induction n generalizing s out with
  | zero => exact ⟨[], BusTrace.refl s, by simp⟩
  | succ n ih =>
    have hb := s.busRead_trace (polFor n)
    unfold readPhase
    split
    · rename_i b s' h
      rw [h] at hb
      obtain ⟨mid, hm, hi⟩ := ih s' (out ++ [b])
      exact ⟨_, hb.trans hm, by simpa [Event.isInner] using hi⟩
    · rename_i s' h
      rw [h] at hb
      exact ⟨_, hb, by simp [Event.isInner]⟩

/-- The trace of a framed transaction: a Start, its data, a Stop (R182). -/
def FramedTrace (s t : State) : Prop :=
  ∃ mid, BusTrace s t ([.start] ++ mid ++ [.stop]) ∧ ∀ e ∈ mid, e.isInner = true

theorem frameWrite_trace (s : State) (addr7 : BitVec 7) (bs : List Byte) :
    FramedTrace s (frameWrite s addr7 bs).state := by
  have hb := s.busStart.busWrite_trace (addressByte addr7 .write)
  unfold frameWrite
  split
  · rename_i s' h
    rw [h] at hb
    obtain ⟨mid, hm, hi⟩ := writePhase_trace s' 0 bs
    refine ⟨_ :: mid, (s.busStart_trace.trans (hb.trans hm)).trans (State.busStop_trace _), ?_⟩
    simpa [Event.isInner] using hi
  · rename_i r s' _ h
    rw [h] at hb
    exact ⟨_, (s.busStart_trace.trans hb).trans (State.busStop_trace _), by simp [Event.isInner]⟩

theorem frameRead_trace (s : State) (addr7 : BitVec 7) (n : Nat) :
    FramedTrace s (frameRead s addr7 n).state := by
  have hb := s.busStart.busWrite_trace (addressByte addr7 .read)
  unfold frameRead
  split
  · rename_i s' h
    rw [h] at hb
    obtain ⟨mid, hm, hi⟩ := readPhase_trace s' [] n
    refine ⟨_ :: mid, (s.busStart_trace.trans (hb.trans hm)).trans (State.busStop_trace _), ?_⟩
    simpa [Event.isInner] using hi
  · rename_i r s' _ h
    rw [h] at hb
    exact ⟨_, (s.busStart_trace.trans hb).trans (State.busStop_trace _), by simp [Event.isInner]⟩

/-- A framed transaction leaves no transaction open (R182). -/
theorem FramedTrace.closes {s t : State} (h : FramedTrace s t) :
    ∃ new, BusTrace s t new ∧ ∀ o, new.foldl openAfter o = false := by
  obtain ⟨mid, ht, hi⟩ := h
  exact ⟨_, ht, fun o => by rw [List.foldl_append]; rfl⟩

end Sys2Proof.Machine
end

