-- ==== Sys2Proof/Laws/Exec.lean ====
section
/-!
SUPPORT. Everything the execution of a host command can do, said once (30_encoding.md R115): it raises an error, or it works
and completes, or it works and hangs in its delay.
-/

namespace Sys2Proof.Machine

/-- The work of a host command, from `s` to `u`: what every command leaves alone, what it does to ERR, what it logs and what
the log makes of BUS_OPEN (R36, R115, R281, R291). -/
structure Worked (i : Instr) (s u : State) : Prop where
  params : u.params = s.params
  cmd : u.cmd = s.cmd
  busEn : u.busEn = s.busEn
  rawIn : u.rawIn = s.rawIn
  errorRecord : u.errorRecord = s.errorRecord
  hung : u.hung = s.hung
  err : u.err = if i = .clrerr then none else s.err
  host : u.host = s.host ∨ s.host = .answerDelay :: u.host
  trace : ∃ new, BusTrace s u new ∧ u.busOpen = new.foldl openAfter s.busOpen
  quiet : s.busEn = false → u.log = s.log

/-- The ends of a host command (R115, R200). -/
inductive CommandEnd (i : Instr) (s : State) (r : Host.Outcome State Fault Refusal) : Prop
  | raised (c : ErrorCode) (h : r = .next (s.raise c cmdOffset))
  | completed (u : State) (w : Worked i s u) (h : r = .next (u.complete i))
  | hangs (u : State) (w : Worked i s u) (h : r = .next u.hang)

/-- Work that follows from a bus frame and a trace. -/
theorem Worked.ofBus {i : Instr} {s t u : State} {new : List Event} (hi : i ≠ .clrerr) (hb : s.busEn = true)
    (f : BusFrame s t) (ht : BusTrace s u new) (ho : u.busOpen = new.foldl openAfter s.busOpen)
    (hu : u.params = t.params ∧ u.cmd = t.cmd ∧ u.busEn = t.busEn ∧ u.rawIn = t.rawIn ∧ u.errorRecord = t.errorRecord ∧ u.hung = t.hung ∧
      u.err = t.err ∧ u.host = t.host) : Worked i s u where
  params := hu.1.trans f.params
  cmd := hu.2.1.trans f.cmd
  busEn := hu.2.2.1.trans f.busEn
  rawIn := hu.2.2.2.1.trans f.rawIn
  errorRecord := hu.2.2.2.2.1.trans f.errorRecord
  hung := hu.2.2.2.2.2.1.trans f.hung
  err := by rw [if_neg hi, hu.2.2.2.2.2.2.1, f.err]
  host := .inl (hu.2.2.2.2.2.2.2.trans f.host)
  trace := ⟨new, ht, ho⟩
  quiet h := by simp [h] at hb

/-- Work that leaves the bus, the emulator and the log alone. -/
theorem Worked.ofLocal {i : Instr} {s u : State} (he : u.err = if i = .clrerr then none else s.err)
    (hu : u.params = s.params ∧ u.cmd = s.cmd ∧ u.busEn = s.busEn ∧ u.rawIn = s.rawIn ∧ u.errorRecord = s.errorRecord ∧ u.hung = s.hung ∧
      u.host = s.host ∧ u.log = s.log ∧ u.emu = s.emu ∧ u.busOpen = s.busOpen) : Worked i s u where
  params := hu.1
  cmd := hu.2.1
  busEn := hu.2.2.1
  rawIn := hu.2.2.2.1
  errorRecord := hu.2.2.2.2.1
  hung := hu.2.2.2.2.2.1
  err := he
  host := .inl hu.2.2.2.2.2.2.1
  trace := ⟨[], (BusTrace.refl s).congr hu.2.2.2.2.2.2.2.1 hu.2.2.2.2.2.2.2.2.1 hu.1, hu.2.2.2.2.2.2.2.2.2⟩
  quiet _ := hu.2.2.2.2.2.2.2.1

/-- A delay request in the log (R200). -/
theorem BusTrace.delay {s t : State} {new : List Event} (h : BusTrace s t new) (ms : Nat) {u : State}
    (hl : u.log = t.log ++ [.delay ms]) (he : u.emu = t.emu) (hp : u.params = t.params) :
    BusTrace s u (new ++ [.delay ms]) where
  log := by rw [hl, h.log, List.append_assoc]
  params := hp.trans h.params
  emulator k := by rw [he, h.emulator k, List.foldl_append]; rfl
  external k := he.trans (h.external k)
  replies k e hm := by
    rcases List.mem_append.1 hm with hm | hm
    · exact h.replies k e hm
    · simp only [List.mem_singleton] at hm
      subst hm
      rfl
  noReset hm := (List.mem_append.1 hm).elim h.noReset (by simp)

/-- A FramedWrite with its report is the work of a command that ends there. -/
theorem Worked.ofFrameWrite {i : Instr} {s u : State} (addr7 : BitVec 7) (bs : List Byte) (hi : i ≠ .clrerr)
    (hb : s.busEn = true) (hu : u = { (frameWrite s addr7 bs).report with ahtResult := u.ahtResult }) : Worked i s u := by
  obtain ⟨new, ht, ho⟩ := (frameWrite_trace s addr7 bs).closes
  rw [hu]
  exact Worked.ofBus hi hb (frameWrite_frame s addr7 bs) (ht.congr rfl rfl rfl) (ho _).symm ⟨rfl, rfl, rfl, rfl, rfl, rfl, rfl, rfl⟩

/-- The work of BEGIN and MEASURE up to their delay, answered or not. -/
theorem Worked.ofDelay {i : Instr} {s u : State} (addr7 : BitVec 7) (bs : List Byte) (ms : Nat) (hi : i ≠ .clrerr)
    (hb : s.busEn = true) (hh : u.host = s.host ∨ s.host = .answerDelay :: u.host)
    (hu : u = { (frameWrite s addr7 bs).report with
      log := (frameWrite s addr7 bs).state.log ++ [.delay ms], host := u.host }) : Worked i s u := by
  have w := Worked.ofFrameWrite (u := (frameWrite s addr7 bs).report) addr7 bs hi hb rfl
  obtain ⟨new, ht, ho⟩ := (frameWrite_trace s addr7 bs).closes
  exact {
    params := by rw [hu]; exact w.params
    cmd := by rw [hu]; exact w.cmd
    busEn := by rw [hu]; exact w.busEn
    rawIn := by rw [hu]; exact w.rawIn
    errorRecord := by rw [hu]; exact w.errorRecord
    hung := by rw [hu]; exact w.hung
    err := by rw [hu]; exact w.err
    host := hh
    trace := ⟨_, ht.delay ms (by rw [hu]) (by rw [hu]; rfl) (by rw [hu]; rfl), by
      rw [hu, List.foldl_append, ho]
      rfl⟩
    quiet := fun h => by simp [h] at hb }

/-- Work followed by a framed read whose fields a command then reports. -/
theorem Worked.thenFrameRead {i : Instr} {s t u : State} (w : Worked i s t) (hb : s.busEn = true)
    (ho : t.busOpen = false) (addr7 : BitVec 7) (n : Nat)
    (hu : u = { (frameRead t addr7 n).report with
      ahtResult := u.ahtResult, ahtStatus := u.ahtStatus, frame := u.frame }) : Worked i s u := by
  have f := frameRead_frame t addr7 n
  obtain ⟨new, ht, _⟩ := w.trace
  obtain ⟨more, hm, hc⟩ := (frameRead_trace t addr7 n).closes
  exact {
    params := by rw [hu]; exact f.params.trans w.params
    cmd := by rw [hu]; exact f.cmd.trans w.cmd
    busEn := by rw [hu]; exact f.busEn.trans w.busEn
    rawIn := by rw [hu]; exact f.rawIn.trans w.rawIn
    errorRecord := by rw [hu]; exact f.errorRecord.trans w.errorRecord
    hung := by rw [hu]; exact f.hung.trans w.hung
    err := by rw [hu]; exact f.err.trans w.err
    host := by
      have hh : u.host = t.host := by rw [hu]; exact f.host
      rw [hh]
      exact w.host
    trace := ⟨_, (ht.trans hm).congr (by rw [hu]; rfl) (by rw [hu]; rfl) (by rw [hu]; rfl), by
      rw [hu, List.foldl_append, hc]
      exact f.busOpen.trans ho⟩
    quiet := fun h => by simp [h] at hb }

theorem execBegin_cases (s : State) : CommandEnd .begin s (execBegin s) := by
  rcases Bool.eq_false_or_eq_true s.busEn with hb | hb
  · by_cases ho : (frameWrite s slaveAddr7 calCmd).outcome = .ack
    · have hs : (frameWrite s slaveAddr7 calCmd).state.host = s.host := (frameWrite_frame s _ _).host
      by_cases hh : ∃ rest, s.host = .answerDelay :: rest
      · obtain ⟨rest, hh⟩ := hh
        refine .completed _ ?_ (execBegin_answered hb rfl ho (hs.trans hh))
        rw [beginStatusRead_frame]
        exact Worked.thenFrameRead (Worked.ofDelay slaveAddr7 calCmd s.params.delayBeginMs (by simp) hb (.inr hh) rfl) hb
          rfl slaveAddr7 1 rfl
      · have hn : ∀ rest, (frameWrite s slaveAddr7 calCmd).state.host ≠ .answerDelay :: rest :=
          fun rest k => hh ⟨rest, hs.symm.trans k⟩
        refine .hangs _ ?_ (execBegin_never hb rfl ho hn)
        exact Worked.ofDelay slaveAddr7 calCmd s.params.delayBeginMs (by simp) hb (.inl hs) rfl
    · refine .completed _ ?_ (execBegin_failed hb rfl ho)
      exact Worked.ofFrameWrite slaveAddr7 calCmd (by simp) hb rfl
  · exact .raised _ (requireBus_disabled _ hb)

theorem execMeasure_cases (s : State) : CommandEnd .measure s (execMeasure s) := by
  rcases Bool.eq_false_or_eq_true s.busEn with hb | hb
  · by_cases ho : (frameWrite s slaveAddr7 trigCmd).outcome = .ack
    · have hs : (frameWrite s slaveAddr7 trigCmd).state.host = s.host := (frameWrite_frame s _ _).host
      by_cases hh : ∃ rest, s.host = .answerDelay :: rest
      · obtain ⟨rest, hh⟩ := hh
        refine .completed _ ?_ (execMeasure_answered hb rfl ho (hs.trans hh))
        exact Worked.thenFrameRead (Worked.ofDelay slaveAddr7 trigCmd s.params.delayMeasMs (by simp) hb (.inr hh) rfl) hb
          rfl slaveAddr7 6 rfl
      · have hn : ∀ rest, (frameWrite s slaveAddr7 trigCmd).state.host ≠ .answerDelay :: rest :=
          fun rest k => hh ⟨rest, hs.symm.trans k⟩
        refine .hangs _ ?_ (execMeasure_never hb rfl ho hn)
        exact Worked.ofDelay slaveAddr7 trigCmd s.params.delayMeasMs (by simp) hb (.inl hs) rfl
    · refine .completed _ ?_ (execMeasure_failed hb rfl ho)
      exact Worked.ofFrameWrite slaveAddr7 trigCmd (by simp) hb rfl
  · exact .raised _ (requireBus_disabled _ hb)

/-- Every end a host command can have (R115, R200). -/
theorem exec_cases {i : Instr} (hi : i.isHostCommand = true) (s : State) : CommandEnd i s (exec i s) := by
  cases i <;> simp only [Instr.isHostCommand, Bool.false_eq_true] at hi <;> simp only [exec]
  case nop => exact .completed s (Worked.ofLocal (by simp) ⟨rfl, rfl, rfl, rfl, rfl, rfl, rfl, rfl, rfl, rfl⟩) rfl
  case clrerr => exact .completed { s with err := none } (Worked.ofLocal (by simp) ⟨rfl, rfl, rfl, rfl, rfl, rfl, rfl, rfl, rfl, rfl⟩) rfl
  case decode =>
    refine .completed _ ?_ rfl
    exact Worked.ofLocal (by simp) ⟨rfl, rfl, rfl, rfl, rfl, rfl, rfl, rfl, rfl, rfl⟩
  case conv k =>
    cases k
    all_goals
      refine .completed _ ?_ rfl
      exact Worked.ofLocal (by simp) ⟨rfl, rfl, rfl, rfl, rfl, rfl, rfl, rfl, rfl, rfl⟩
  case begin => exact execBegin_cases s
  case measure => exact execMeasure_cases s
  case start =>
    rcases Bool.eq_false_or_eq_true s.busEn with hb | hb
    · refine .completed _ ?_ (execStart_enabled hb)
      exact Worked.ofBus (by simp) hb s.busStart_frame (s.busStart_trace.congr rfl rfl rfl) rfl
        ⟨rfl, rfl, rfl, rfl, rfl, rfl, rfl, rfl⟩
    · exact .raised _ (requireBus_disabled _ hb)
  case stop =>
    rcases Bool.eq_false_or_eq_true s.busEn with hb | hb
    · refine .completed _ ?_ (execStop_enabled hb)
      exact Worked.ofBus (by simp) hb s.busStop_frame (s.busStop_trace.congr rfl rfl rfl) rfl
        ⟨rfl, rfl, rfl, rfl, rfl, rfl, rfl, rfl⟩
    · exact .raised _ (requireBus_disabled _ hb)
  case wrb val =>
    rcases Bool.eq_false_or_eq_true s.busEn with hb | hb
    · rcases Bool.eq_false_or_eq_true s.busOpen with ho | ho
      · refine .completed _ ?_ (execWrb_passed val hb ho)
        exact Worked.ofBus (by simp) hb (s.busWrite_frame val) ((s.busWrite_trace val).congr rfl rfl rfl)
          (s.busWrite_frame val).busOpen ⟨rfl, rfl, rfl, rfl, rfl, rfl, rfl, rfl⟩
      · exact .raised _ ((requireBus_enabled _ hb).trans (requireOpen_closed _ ho))
    · exact .raised _ (requireBus_disabled _ hb)
  case rdb pol =>
    rcases Bool.eq_false_or_eq_true s.busEn with hb | hb
    · rcases Bool.eq_false_or_eq_true s.busOpen with ho | ho
      · refine .completed _ ?_ (execRdb_passed pol hb ho)
        exact Worked.ofBus (by simp) hb (s.busRead_frame pol) ((s.busRead_trace pol).congr rfl rfl rfl)
          (s.busRead_frame pol).busOpen ⟨rfl, rfl, rfl, rfl, rfl, rfl, rfl, rfl⟩
      · exact .raised _ ((requireBus_enabled _ hb).trans (requireOpen_closed _ ho))
    · exact .raised _ (requireBus_disabled _ hb)
  case fwr addr7 len =>
    rcases Bool.eq_false_or_eq_true s.busEn with hb | hb
    · obtain ⟨new, ht, ho⟩ := (frameWrite_trace s addr7 (dataBytes s len)).closes
      refine .completed _ ?_ (execFwr_enabled addr7 len hb rfl)
      exact Worked.ofBus (by simp) hb (frameWrite_frame s addr7 (dataBytes s len)) (ht.congr rfl rfl rfl)
        (ho _).symm ⟨rfl, rfl, rfl, rfl, rfl, rfl, rfl, rfl⟩
    · exact .raised _ (requireBus_disabled _ hb)
  case frd addr7 len =>
    rcases Bool.eq_false_or_eq_true s.busEn with hb | hb
    · obtain ⟨new, ht, ho⟩ := (frameRead_trace s addr7 len.toNat).closes
      refine .completed _ ?_ (execFrd_enabled addr7 len hb rfl)
      exact Worked.ofBus (by simp) hb (frameRead_frame s addr7 len.toNat) (ht.congr rfl rfl rfl)
        (ho _).symm ⟨rfl, rfl, rfl, rfl, rfl, rfl, rfl, rfl⟩
    · exact .raised _ (requireBus_disabled _ hb)

/-- A command word decodes to a host command (R112). -/
theorem decode_isHostCommand {v : Word} {i : Instr} (h : decode (.cmd32 v) = .ok i) : i.isHostCommand = true := by
  simp only [decode, decodeCommand, acceptIf] at h
  split at h
  all_goals first
    | (split at h <;> simp only [Except.ok.injEq, reduceCtorEq] at h; subst h; rfl)
    | simp at h

end Sys2Proof.Machine
end

