-- ==== Sys2Proof/Laws/PerInstr.lean ====
section
/-!
SUPPORT. The family EncodedForm of per-instruction statements: the encoding of every instruction is a well-formed code word
of the opcode table, and it is a 32-bit command word exactly for the host commands (30_encoding.md R112, R119, R122).
-/

namespace Sys2Proof.Laws.EncodedForm

open Sys2Proof

/-- The encoding is well-formed, and of the command format exactly for a host command. -/
def Statement (i : Instr) : Prop :=
  (encode i).wellFormed = true ∧ (i.isHostCommand = true ↔ ∃ w, encode i = .cmd32 w)

theorem nop : Statement .nop := ⟨by decide, by simp [encode, Instr.isHostCommand]⟩
theorem start : Statement .start := ⟨by decide, by simp [encode, Instr.isHostCommand]⟩
theorem stop : Statement .stop := ⟨by decide, by simp [encode, Instr.isHostCommand]⟩

theorem wrb (val : Byte) : Statement (.wrb val) := by
  refine ⟨?_, by simp [encode, Instr.isHostCommand]⟩
  have h : ∀ n : Fin 256, (encode (.wrb (BitVec.ofNat 8 n.val))).wellFormed = true := by decide +kernel
  simpa using h ⟨val.toNat, val.isLt⟩

theorem rdb (ackpol : AckPol) : Statement (.rdb ackpol) :=
  ⟨by cases ackpol <;> decide, by simp [encode, Instr.isHostCommand]⟩

theorem fwr (addr7 : BitVec 7) (len : BitVec 4) : Statement (.fwr addr7 len) := by
  refine ⟨?_, by simp [encode, Instr.isHostCommand]⟩
  have h : ∀ (n : Fin 128) (k : Fin 16),
      (encode (.fwr (BitVec.ofNat 7 n.val) (BitVec.ofNat 4 k.val))).wellFormed = true := by decide +kernel
  simpa using h ⟨addr7.toNat, addr7.isLt⟩ ⟨len.toNat, len.isLt⟩

theorem frd (addr7 : BitVec 7) (len : BitVec 4) : Statement (.frd addr7 len) := by
  refine ⟨?_, by simp [encode, Instr.isHostCommand]⟩
  have h : ∀ (n : Fin 128) (k : Fin 16),
      (encode (.frd (BitVec.ofNat 7 n.val) (BitVec.ofNat 4 k.val))).wellFormed = true := by decide +kernel
  simpa using h ⟨addr7.toNat, addr7.isLt⟩ ⟨len.toNat, len.isLt⟩

theorem begin : Statement .begin := ⟨by decide, by simp [encode, Instr.isHostCommand]⟩
theorem measure : Statement .measure := ⟨by decide, by simp [encode, Instr.isHostCommand]⟩
theorem decode : Statement .decode := ⟨by decide, by simp [encode, Instr.isHostCommand]⟩

theorem conv (kind : ConvKind) : Statement (.conv kind) :=
  ⟨by cases kind <;> decide, by simp [encode, Instr.isHostCommand]⟩

theorem clrerr : Statement .clrerr := ⟨by decide, by simp [encode, Instr.isHostCommand]⟩
theorem emuAddrW : Statement .emuAddrW := ⟨by decide, by simp [encode, Instr.isHostCommand]⟩
theorem emuAddrR : Statement .emuAddrR := ⟨by decide, by simp [encode, Instr.isHostCommand]⟩
theorem emuCal : Statement .emuCal := ⟨by decide, by simp [encode, Instr.isHostCommand]⟩
theorem emuTrig : Statement .emuTrig := ⟨by decide, by simp [encode, Instr.isHostCommand]⟩

end Sys2Proof.Laws.EncodedForm
end

