-- ==== Sys2Proof/Tests/Slice0.lean ====
section
/-!
SUPPORT. The package's own tests: ill-formed terms that the checks refuse, the decoding of written-out words, small single
steps with the expected values of 95_test_vectors.md, and the witnesses of the obligations' hypotheses.
-/

namespace Sys2Proof.Tests

open Sys2Proof Sys2Proof.Machine

/-! ### States -/

/-- After reset and a write of 1 to CONFIG. -/
def enabled : State := { State.reset with busEn := true }

/-- With a transaction open. -/
def opened : State := { enabled with busOpen := true }

/-- With an external endpoint and its draws. -/
def external (w : List AckOutcome) (r : List ReadReply) : State :=
  { opened with
    params := { Params.standard with endpoint := .external }
    oracle := { writeReplies := w, readReplies := r, draws := 0 } }

/-- With the host about to answer a delay. -/
def answering (s : State) : State := { s with host := [.answerDelay] }

/-- An emulator in a given state of a transaction. -/
def emulatorIn (st : EmuState) (cmdCnt : Fin 4) (sendCnt : Fin 7) : Emulator :=
  { Emulator.reset with st := st, cmdCnt := cmdCnt, sendCnt := sendCnt }

/-- The value of `f` in the next state. -/
def see {α : Type} (r : Host.Outcome State Fault Refusal) (f : State → α) : Option α := (nextOf r).map f

/-- The state after a host program, with no other action left. -/
def afterHost (s : State) (h : List HostAction) : Host.Outcome State Fault Refusal := step { s with host := h }

/-! ### WellFormed: each check refuses an ill-formed term (95 section 2.1; 30 R112, R114, R119, R122, R124, R125) -/

theorem test_illformed_nop : (CodeWord.cmd32 0x00000001).wellFormed = false := by decide
theorem test_illformed_start : (CodeWord.cmd32 0x10000001).wellFormed = false := by decide
theorem test_illformed_stop : (CodeWord.cmd32 0x28000000).wellFormed = false := by decide
theorem test_illformed_wrb : (CodeWord.cmd32 0x30000170).wellFormed = false := by decide
theorem test_illformed_rdb : (CodeWord.cmd32 0x40000001).wellFormed = false := by decide
theorem test_illformed_fwr_addr : (CodeWord.cmd32 0x50B80003).wellFormed = false := by decide
theorem test_illformed_fwr_len : (CodeWord.cmd32 0x50380013).wellFormed = false := by decide
theorem test_illformed_frd : (CodeWord.cmd32 0x60388006).wellFormed = false := by decide
theorem test_illformed_begin : (CodeWord.cmd32 0x70000001).wellFormed = false := by decide
theorem test_illformed_measure : (CodeWord.cmd32 0x80000100).wellFormed = false := by decide
theorem test_illformed_decode : (CodeWord.cmd32 0x90000001).wellFormed = false := by decide
theorem test_illformed_conv : (CodeWord.cmd32 0xA0000002).wellFormed = false := by decide
theorem test_illformed_clrerr : (CodeWord.cmd32 0xB0000001).wellFormed = false := by decide
theorem test_illformed_reserved :
    (CodeWord.cmd32 0xC0000000).wellFormed = false ∧ (CodeWord.cmd32 0xFFFFFFFF).wellFormed = false := by decide
theorem test_illformed_address : (CodeWord.addr8 0x72).wellFormed = false := by decide
theorem test_illformed_frame : (CodeWord.cmd24 0xBE0801).wellFormed = false := by decide
theorem test_illformed_command_line : (HostLine.command .emuCal).wellFormed = false := by decide
theorem test_illformed_loadD : (HostLine.loadD (List.replicate 17 0)).wellFormed = false := by decide
theorem test_illformed_loadF : (HostLine.loadF [1, 2, 3, 4, 5]).wellFormed = false := by decide
theorem test_illformed_send : (HostLine.send 0x38 (List.replicate 16 0)).wellFormed = false := by decide
theorem test_wellformed_bounds :
    (CodeWord.cmd32 0x507F000F).wellFormed = true ∧ (HostLine.loadD (List.replicate 16 0)).wellFormed = true ∧
    (HostLine.send 0x38 (List.replicate 15 0)).wellFormed = true := by decide

/-! ### Decoding of words written out from the encodings (30 R110 to R112, R119, R122; 95 section 2.1) -/

theorem test_decode_nop : decode (.cmd32 0b0000_0000000000000000000000000000) = .ok .nop := by decide
theorem test_decode_start : decode (.cmd32 0b0001_0000000000000000000000000000) = .ok .start := by decide
theorem test_decode_stop : decode (.cmd32 0b0010_0000000000000000000000000000) = .ok .stop := by decide
theorem test_decode_wrb : decode (.cmd32 0b0011_00000000000000000000_01110000) = .ok (.wrb 0x70) := by decide
theorem test_decode_rdb_nack : decode (.cmd32 0b0100_0000000000000000000_1_00000000) = .ok (.rdb .nack) := by decide
theorem test_decode_rdb_ack : decode (.cmd32 0b0100_0000000000000000000_0_00000000) = .ok (.rdb .ack) := by decide
theorem test_decode_fwr : decode (.cmd32 0b0101_00000_0111000_000000000000_0011) = .ok (.fwr 0x38 3) := by decide
theorem test_decode_fwr_largest : decode (.cmd32 0b0101_00000_1111111_000000000000_1111) = .ok (.fwr 0x7F 15) := by
  decide
theorem test_decode_frd : decode (.cmd32 0b0110_00000_0111000_000000000000_0110) = .ok (.frd 0x38 6) := by decide
theorem test_decode_begin : decode (.cmd32 0b0111_0000000000000000000000000000) = .ok .begin := by decide
theorem test_decode_measure : decode (.cmd32 0b1000_0000000000000000000000000000) = .ok .measure := by decide
theorem test_decode_decode : decode (.cmd32 0b1001_0000000000000000000000000000) = .ok .decode := by decide
theorem test_decode_conv_h : decode (.cmd32 0b1010_000000000000000000000000000_0) = .ok (.conv .humidity) := by decide
theorem test_decode_conv_t : decode (.cmd32 0b1010_000000000000000000000000000_1) = .ok (.conv .temperature) := by decide
theorem test_decode_clrerr : decode (.cmd32 0b1011_0000000000000000000000000000) = .ok .clrerr := by decide
theorem test_decode_emu_addr_w : decode (.addr8 0b0111000_0) = .ok .emuAddrW := by decide
theorem test_decode_emu_addr_r : decode (.addr8 0b0111000_1) = .ok .emuAddrR := by decide
theorem test_decode_emu_cal : decode (.cmd24 0b10111110_00001000_00000000) = .ok .emuCal := by decide
theorem test_decode_emu_trig : decode (.cmd24 0b10101100_00110011_00000000) = .ok .emuTrig := by decide

theorem test_decode_rejects :
    decode (.cmd32 0xC0000000) = .error .reservedOpcode ∧ decode (.cmd32 0x30000170) = .error .operandBits ∧
    decode (.addr8 0x72) = .error .foreignAddress ∧ decode (.cmd24 0x0008BE) = .error .unrecognizedFrame := by decide

/-- The numbering of opcode_table.json: its own match values (assumption log 15 for the 24-bit rows). -/
theorem test_decode_table_word :
    decodeTableWord 32 0x50380003 = some (.fwr 0x38 3) ∧ decodeTableWord 8 0x71 = some .emuAddrR ∧
    decodeTableWord 24 0xBE0800 = some .emuCal ∧ decodeTableWord 24 0xAC3300 = some .emuTrig ∧
    decodeTableWord 32 0xC0000000 = none ∧ decodeTableWord 16 0x70 = none := by decide

/-- R125: the encodings of the expansion's examples. -/
theorem test_encode_examples :
    encode (.fwr 0x38 3) = .cmd32 0x50380003 ∧ encode (.wrb 0x70) = .cmd32 0x30000070 ∧
    encode (.rdb .nack) = .cmd32 0x40000100 ∧ encode (.conv .temperature) = .cmd32 0xA0000001 := by decide

/-! ### The next step after withFetchWord runs the word -/

theorem test_fetch_command : see (step (State.reset.withFetchWord 32 0xB0000000)) (·.cmd) = some 0xB0000000 := by
  decide
theorem test_fetch_address :
    see (step (State.reset.withFetchWord 8 0x70)) (·.emu.st) = some .receivingCommand ∧
    see (step (State.reset.withFetchWord 8 0x71)) (·.emu.st) = some .sendingData := by decide
theorem test_fetch_calibrate :
    see (step (State.reset.withFetchWord 24 0xBE0800)) (·.emu.calibrated) = some true := by decide
theorem test_fetch_trigger :
    see (step (State.withFetchWord { State.reset with emu := Emulator.reset.calibrate } 24 0xAC3300)) (·.emu.measTriggered)
      = some true := by decide

/-! ### Single steps (95_test_vectors.md sections 2.2 to 2.8) -/

/-- BT1. -/
theorem test_start :
    see (exec .start enabled) (fun t => (t.log, statusWord t, emuDbgWord t)) = some ([.start], 0x4, 0x4) := by
  decide

/-- BT2: the repeated start. -/
theorem test_start_repeated :
    see (exec .start { opened with log := [.start] }) (fun t => (t.log, statusWord t)) = some ([.start, .start], 0x4) := by
  decide

/-- BT3. -/
theorem test_stop_closed : see (exec .stop enabled) (fun t => (t.log, statusWord t)) = some ([.stop], 0) := by
  decide

/-- EM5: STOP drops a partial command. -/
theorem test_stop_drops_partial :
    see (exec .stop { opened with emu := { emulatorIn .receivingCommand 1 0 with cmdBuf := #v[0xBE, 0, 0] } })
      (fun t => (emuDbgWord t, emuCmdbufWord t)) = some (0, 0) := by decide

/-- BT4. -/
theorem test_wrb_address :
    see (exec (.wrb 0x70) { opened with emu := Emulator.reset.onStart }) (fun t => (statusWord t, emuDbgWord t))
      = some (0x4, 0x1) := by decide

/-- BT9: a NACK leaves the transaction open. -/
theorem test_wrb_nack : see (exec (.wrb 0x70) (external [.nack] [])) statusWord = some 0x5 := by decide

/-- BT7. -/
theorem test_rdb_nack :
    see (exec (.rdb .nack) { opened with emu := emulatorIn .sendingData 0 0 }) (fun t => (t.rxb, statusWord t, emuDbgWord t))
      = some (0x08, 0x5, 0x1002) := by decide

/-- BT8: on TERR RXB keeps its value. -/
theorem test_rdb_terr :
    see (exec (.rdb .ack) { external [] [.terr] with rxb := 0x5A }) (fun t => (t.rxb, t.outcome))
      = some (0x5A, .terr) := by decide

/-- FR2: the byte after the NACK is not sent. -/
theorem test_fwr_nack :
    see (exec (.fwr 0x38 3) { external [.ack, .ack, .nack] [] with data := storeBytes State.reset.data [0xBE, 0x08, 0x00] })
      (fun t => (t.log, statusWord t))
      = some ([.start, .write 0x70 .ack, .write 0xBE .ack, .write 0x08 .nack, .stop], 0x11) := by decide

/-- FR11: six data bytes are one command. -/
theorem test_fwr_two_frames :
    see (exec (.fwr 0x38 6)
      { enabled with data := storeBytes State.reset.data [0xBE, 0x08, 0x00, 0xAC, 0x33, 0x00] })
      (fun t => (statusWord t, emuDbgWord t)) = some (0x60, 0x8) := by decide

/-- FR5: a TERR keeps the bytes read. -/
theorem test_frd_terr :
    see (exec (.frd 0x38 6) (external [.ack] [.delivered 0x11, .delivered 0x22, .terr]))
      (fun t => (t.data.toList.take 3, statusWord t)) = some ([0x11, 0x22, 0x00], 0x22) := by decide

/-- FR10: the seventh byte is 0xFF. -/
theorem test_frd_exhausted :
    see (exec (.frd 0x38 7) enabled) (fun t => (t.data.toList.take 8, statusWord t))
      = some ([0x08, 0xAA, 0xAA, 0xAB, 0xBB, 0xBB, 0xFF, 0x00], 0x70) := by decide

/-- AH1. -/
theorem test_begin_emulator :
    see (exec .begin (answering enabled)) (fun t => (statusWord t, t.ahtStatus, emuDbgWord t))
      = some (0x1010, 0x08, 0x8) := by decide

/-- AH6: bit 3 of 0xF7 is 0. -/
theorem test_begin_not_calibrated :
    see (exec .begin (answering { external [.ack, .ack, .ack, .ack, .ack] [.delivered 0xF7] with busOpen := false }))
      (fun t => (statusWord t, t.ahtStatus)) = some (0x2010, 0xF7) := by decide

/-- AH10. -/
theorem test_measure_short_read :
    see (exec .measure (answering (external [.ack, .ack, .ack, .ack, .ack]
      [.delivered 0x1C, .delivered 0x66, .delivered 0x66, .terr])))
      (fun t => (statusWord t, t.frame)) = some (0x3032, #v[0x1C, 0x66, 0x66, 0, 0, 0]) := by decide

/-- AH12: the trigger is ignored before a calibration. -/
theorem test_measure_uncalibrated :
    see (exec .measure (answering enabled)) (fun t => (statusWord t, t.frame, emuDbgWord t))
      = some (0x1060, #v[0x08, 0xAA, 0xAA, 0xAB, 0xBB, 0xBB], 0) := by decide

/-- DE5. -/
theorem test_decode_de5 :
    see (exec .decode { State.reset with frame := #v[0x00, 0x12, 0x34, 0x56, 0x78, 0x9A] })
      (fun t => (t.rawH, t.rawT, t.hum, t.temp, t.dcal)) = some (0x12345, 0x6789A, 7, 30, false) := by decide

/-- DE6. -/
theorem test_decode_de6 :
    see (exec .decode { State.reset with frame := #v[0x18, 0x66, 0x66, 0x65, 0x99, 0x9A] })
      (fun t => (t.rawH, t.rawT, t.hum, t.temp, statusWord t)) = some (0x66666, 0x5999A, 39, 20, 0x10000) := by
  decide

/-- CV13: the first input where 32-bit products would wrap. -/
theorem test_conv_h_exact :
    see (exec (.conv .humidity) { State.reset with rawIn := 21474837 }) (fun t => (t.hum, t.temp)) = some (2048, 0) := by
  decide

/-- CV3 and CV4: the subtraction follows the truncating division. -/
theorem test_conv_t_truncates :
    see (exec (.conv .temperature) { State.reset with rawIn := 5242 }) (·.temp) = some 0xFFFFFFCE ∧
    see (exec (.conv .temperature) { State.reset with rawIn := 5243 }) (·.temp) = some 0xFFFFFFCF := by decide

/-- SY1. -/
theorem test_nop :
    see (exec .nop State.reset) (fun t => (t.result, t.log, t.cmd)) = some (some .ok, [], 0) := by decide

/-- SY4: protocol results are not errors. -/
theorem test_clrerr :
    see (exec .clrerr { State.reset with err := some .unmapped, ahtResult := .transportAbsent }) (fun t => (statusWord t, t.cmd))
      = some (0x4000, 0xB0000000) := by decide

/-- EM1: after a foreign address the emulator is Idle. -/
theorem test_emulator_foreign_address :
    (Emulator.reset.onStart.onWrite 0x72).2 = Emulator.reset := by decide

/-- R243. -/
theorem test_emu_addr_w :
    see (exec .emuAddrW { opened with emu := Emulator.reset.onStart }) emuDbgWord = some 0x1 := by decide

/-- R243. -/
theorem test_emu_addr_r :
    see (exec .emuAddrR { opened with emu := Emulator.reset.onStart }) emuDbgWord = some 0x2 := by decide

/-- R245, R251. -/
theorem test_emu_cal :
    see (exec .emuCal { opened with emu := emulatorIn .receivingCommand 0 0 }) (fun t => (emuDbgWord t, emuCmdbufWord t))
      = some (0x308, 0x0008BE) := by decide

/-- R252: ignored before a calibration. -/
theorem test_emu_trig :
    see (exec .emuTrig { opened with emu := emulatorIn .receivingCommand 0 0 }) (fun t => (emuDbgWord t, emuCmdbufWord t))
      = some (0x300, 0x0033AC) := by decide

/-- ER4. -/
theorem test_error_priority :
    see (regWrite State.reset 0x00 0x30000170) (fun t => (t.result, t.errorRecord))
      = some (some (.err .illegalCmd), [(.illegalCmd, 0x00)]) := by decide

/-- ER7. -/
theorem test_frame6_unmapped :
    see (afterHost State.reset [.regRead 0x9C]) (fun t => (t.result, t.errorRecord, statusWord t))
      = some (some (.err .unmapped), [(.unmapped, 0x9C)], 0x400) := by decide

/-- ER11 and ER12. -/
theorem test_config_write :
    see (regWrite State.reset 0x08 0x7) (fun t => (configWord t, t.result)) = some (0x3, some .ok) ∧
    see (regWrite (State.resetWith { Params.standard with busAvailable := false }) 0x08 0x1) configWord = some 0 := by
  decide

/-- ER13: the first error is kept. -/
theorem test_first_error_kept :
    see (regWrite { State.reset with err := some .unmapped, errorRecord := [(.unmapped, 0x98)] } 0x04 0)
      (fun t => (statusWord t, t.errorRecord)) = some (0x400, [(.unmapped, 0x98), (.readOnly, 0x04)]) := by decide

/-- EM12: reset. -/
theorem test_reset :
    see (afterHost { opened with emu := { Emulator.reset with calibrated := true, measTriggered := true } } [.reset])
      (fun t => (emuDbgWord t, configWord t, t.log)) = some (0, 0x2, [.reset]) := by decide

/-- R329: the hang is a fault of the next step. -/
theorem test_hang :
    see (exec .begin enabled) (·.hung) = some true ∧
    step { State.reset with hung := true } = .fault .delayUnanswered := ⟨by decide, rfl⟩

/-! ### Witnesses of the obligations' hypotheses, one for each clause, at the ends of its range -/

theorem no_instr_reserved (i : Instr) : decode (.cmd32 0xC0000000) ≠ .ok i := by
  rw [show decode (.cmd32 0xC0000000) = .error .reservedOpcode by decide]
  simp

theorem no_instr_wrb8 (i : Instr) : decode (.cmd32 0x30000170) ≠ .ok i := by
  rw [show decode (.cmd32 0x30000170) = .error .operandBits by decide]
  simp

theorem witness_IllegalWordsAreThoseOutsideTheOpcodeMap :
    12 ≤ ((0xC0000000 : Word).extractLsb' 28 4).toNat ∧ 12 ≤ ((0xFFFFFFFF : Word).extractLsb' 28 4).toNat ∧
    (∀ r ∈ opcodeTable, (0x00000001 : Word) &&& r.mask ≠ r.matchBits) ∧
    (∃ r ∈ opcodeTable, (0x507F000F : Word) &&& r.mask = r.matchBits) ∧
    (∃ r ∈ opcodeTable, (0xA0000001 : Word) &&& r.mask = r.matchBits) := by decide

theorem witness_AccessOutsideTheMapRaisesUnmapped :
    State.reset.hung = false ∧ (0x01 : Offset).toNat % 4 ≠ 0 ∧ (0xFF : Offset).toNat % 4 ≠ 0 ∧
    (0x30 ≤ (0x30 : Offset).toNat ∧ (0x30 : Offset).toNat ≤ 0x3C) ∧
    (0x30 ≤ (0x3C : Offset).toNat ∧ (0x3C : Offset).toNat ≤ 0x3C) ∧
    0x98 ≤ (0x98 : Offset).toNat ∧ 0x98 ≤ (0xFC : Offset).toNat := by decide

theorem witness_ReadAnswersTheRegisterAndChangesNothing :
    State.reset.hung = false ∧ regAt 0x98 = none ∧ regAt 0x00 = some .cmd ∧ regAt 0x2C = some .emuCmdbuf ∧
    regAt 0x7C = some (.data 15) ∧ regAt 0x94 = some (.frame 5) := by decide

theorem witness_EmulatorViewsShowTheEmulator :
    State.reset.params.endpoint = .emulator ∧ (external [] []).params.endpoint = .external := by decide

theorem witness_HostWriteByItsOffset :
    regAt 0xFC = none ∧ decode (.cmd32 0xB0000000) = .ok .clrerr ∧ (∀ i, decode (.cmd32 0xC0000000) ≠ .ok i) :=
  ⟨by decide, by decide, no_instr_reserved⟩

theorem witness_ErrorsArePrecise :
    State.reset.hung = false ∧
    see (afterHost State.reset [.regRead 0x98]) (·.result) = some (some (.err .unmapped)) ∧
    see (afterHost State.reset [.regWrite 0x00 0x10000000]) (·.result) = some (some (.err .busUnconfigured)) := by
  decide

theorem witness_ErrorPriority :
    regAt 0x01 = none ∧ (regAt 0x04 = some .status ∧ isReadOnly .status = true) ∧
    (∀ i, decode (.cmd32 0x30000170) ≠ .ok i) ∧
    (decode (.cmd32 0x80000000) = .ok .measure ∧ State.reset.busEn = false) ∧
    (decode (.cmd32 0x300000FF) = .ok (.wrb 0xFF) ∧ enabled.busEn = true ∧ enabled.busOpen = false) :=
  ⟨by decide, by decide, no_instr_wrb8, by decide, by decide⟩

theorem witness_ErrorRecordIsNeverCleared :
    State.reset.hung = false ∧
    see (afterHost State.reset [.regWrite 0x04 1]) (fun t => (t.result, t.errorRecord))
      = some (some (.err .readOnly), [(.readOnly, 0x04)]) ∧
    see (afterHost { State.reset with errorRecord := [(.readOnly, 0x04)] } [.reset]) (·.errorRecord)
      = some [(.readOnly, 0x04)] := by decide

theorem witness_ProtocolFailuresAreNoErrors :
    PassesChecks (.wrb 0x70) (external [.nack] []) ∧
    see (exec (.wrb 0x70) (external [.nack] [])) (fun t => (t.result, t.outcome)) = some (some .ok, .nack) ∧
    PassesChecks .measure (external [.nack] []) ∧
    see (exec .measure (external [.nack] [])) (fun t => (t.result, t.ahtResult)) = some (some .ok, .transportAbsent) ∧
    (external [.terr] []).hung = false ∧
    see (afterHost (external [.terr] []) [.regWrite 0x00 0x30000070]) (fun t => (t.result, t.outcome))
      = some (some .ok, .terr) ∧
    see (afterHost { State.reset with err := some .unmapped } [.regWrite 0x00 0xB0000000]) (fun t => (t.result, t.err))
      = some (some .ok, none) := by decide

theorem witness_BusCommandsNeedTheBus :
    State.reset.busEn = false ∧ (enabled.busEn = true ∧ enabled.busOpen = false) := by decide

theorem witness_StartOpensATransaction :
    ((0x10000001 : Word).extractLsb' 28 4 = 0x1 ∧ (0x10000001 : Word).extractLsb' 0 28 ≠ 0) ∧
    ((0x18000000 : Word).extractLsb' 28 4 = 0x1 ∧ (0x18000000 : Word).extractLsb' 0 28 ≠ 0) ∧
    State.reset.busEn = false ∧ enabled.busEn = true := by decide

theorem witness_StopClosesATransaction :
    ((0x20000001 : Word).extractLsb' 28 4 = 0x2 ∧ (0x20000001 : Word).extractLsb' 0 28 ≠ 0) ∧
    State.reset.busEn = false ∧ enabled.busEn = true := by decide

theorem witness_WriteByteReportsTheReply :
    ((0x30000100 : Word).extractLsb' 28 4 = 0x3 ∧ (0x30000100 : Word).extractLsb' 8 20 ≠ 0) ∧
    State.reset.busEn = false ∧ (enabled.busEn = true ∧ enabled.busOpen = false) ∧
    (opened.busEn = true ∧ opened.busOpen = true ∧ opened.params.endpoint = .emulator) ∧
    Emulator.reset.onStart.awaitAddr = true ∧
    ((external [.nack] []).busEn = true ∧ (external [.nack] []).busOpen = true ∧
      (external [.nack] []).params.endpoint = .external ∧
      (external [.nack] []).oracle.drawWrite = (.nack, { writeReplies := [], readReplies := [], draws := 0 })) := by
  decide

theorem witness_ReadByteReportsTheMastersAcknowledgement :
    ((0x40000200 : Word).extractLsb' 28 4 = 0x4 ∧ (0x40000200 : Word).extractLsb' 9 19 ≠ 0) ∧
    ((0x40000080 : Word).extractLsb' 28 4 = 0x4 ∧ (0x40000080 : Word).extractLsb' 0 8 ≠ 0) ∧
    State.reset.busEn = false ∧ (enabled.busEn = true ∧ enabled.busOpen = false) ∧
    (opened.busEn = true ∧ opened.busOpen = true ∧ opened.params.endpoint = .emulator ∧ opened.emu.st = .idle) ∧
    ((emulatorIn .sendingData 0 0).st = .sendingData ∧ (emulatorIn .sendingData 0 0).sendCnt = 0) ∧
    ((emulatorIn .sendingData 0 5).st = .sendingData ∧ (emulatorIn .sendingData 0 5).sendCnt = 5) ∧
    ((external [] [.terr]).busEn = true ∧ (external [] [.terr]).busOpen = true ∧
      (external [] [.terr]).params.endpoint = .external ∧
      (external [] [.terr]).oracle.drawRead = (.terr, { writeReplies := [], readReplies := [], draws := 0 })) := by
  decide

theorem witness_FramingEmitsOneStartAndOneStop :
    enabled.busEn = true ∧ see (exec (.fwr 0x7F 15) enabled) (·.busOpen) = some false ∧
    see (exec (.frd 0x00 0) opened) (·.busOpen) = some false := by decide

/-- With the bus enabled, an external endpoint and exactly these replies to come. -/
abbrev Replies (s : State) (w : List AckOutcome) (r : List ReadReply) : Prop :=
  s.busEn = true ∧ s.params.endpoint = .external ∧ s.oracle.writeReplies = w ∧ s.oracle.readReplies = r

/-- The replies of `k` ACKed bytes. -/
abbrev acks (k : Nat) : List AckOutcome := List.replicate k .ack

/-- The replies of `k` ACKed bytes and then `r`. -/
abbrev acksThen (k : Nat) (r : AckOutcome) : List AckOutcome := acks k ++ [r]

/-- The replies that deliver `k` bytes. -/
abbrev bytes (k : Nat) : List ReadReply := (List.replicate k (0x5A : Byte)).map .delivered

/-- The replies that deliver `k` bytes and then fail. -/
abbrev bytesThenTerr (k : Nat) : List ReadReply := bytes k ++ [.terr]

/-- With the bus enabled and the emulator as the endpoint. -/
abbrev OnEmulator (s : State) : Prop := s.busEn = true ∧ s.params.endpoint = .emulator

theorem witness_FramedWriteStopsAtTheFirstFailure :
    ((0x50800000 : Word).extractLsb' 28 4 = 0x5 ∧ (0x50800000 : Word).extractLsb' 23 5 ≠ 0) ∧
    ((0x50008000 : Word).extractLsb' 28 4 = 0x5 ∧ (0x50008000 : Word).extractLsb' 4 12 ≠ 0) ∧
    State.reset.busEn = false ∧ AckOutcome.terr ≠ .ack ∧ AckOutcome.nack ≠ .ack ∧
    Replies (external [.terr] []) [.terr] [] ∧
    (0 < (1 : BitVec 4).toNat ∧ Replies (external [.ack, .nack] []) (acksThen (0 + 1) .nack) []) ∧
    (14 < (15 : BitVec 4).toNat ∧ Replies (external (acksThen 15 .nack) []) (acksThen (14 + 1) .nack) []) ∧
    Replies (external [.ack] []) (acks ((0 : BitVec 4).toNat + 1)) [] ∧
    Replies (external (acks 16) []) (acks ((15 : BitVec 4).toNat + 1)) [] ∧ OnEmulator enabled := by decide

theorem witness_FramedReadKeepsTheBytesReceived :
    ((0x60800000 : Word).extractLsb' 28 4 = 0x6 ∧ (0x60800000 : Word).extractLsb' 23 5 ≠ 0) ∧
    ((0x60000010 : Word).extractLsb' 28 4 = 0x6 ∧ (0x60000010 : Word).extractLsb' 4 12 ≠ 0) ∧
    State.reset.busEn = false ∧ AckOutcome.nack ≠ .ack ∧
    Replies (external [.nack] []) [.nack] [] ∧
    (0 < (1 : BitVec 4).toNat ∧ Replies (external [.ack] [.terr]) [.ack] (bytesThenTerr 0)) ∧
    (14 < (15 : BitVec 4).toNat ∧ Replies (external [.ack] (bytesThenTerr 14)) [.ack] (bytesThenTerr 14)) ∧
    (0 = (0 : BitVec 4).toNat ∧ Replies (external [.ack] []) [.ack] (bytes 0)) ∧
    (15 = (15 : BitVec 4).toNat ∧ Replies (external [.ack] (bytes 15)) [.ack] (bytes 15)) ∧ OnEmulator enabled := by decide

theorem witness_BeginReportsTheSensor :
    ((0x70000001 : Word).extractLsb' 28 4 = 0x7 ∧ (0x70000001 : Word).extractLsb' 0 28 ≠ 0) ∧
    State.reset.busEn = false ∧ AckOutcome.terr ≠ .ack ∧ AckOutcome.nack ≠ .ack ∧
    Replies (external [.nack] []) (acksThen 0 .nack) [] ∧
    Replies (external (acksThen 3 .terr) []) (acksThen 3 .terr) [] ∧
    Replies (answering (external (acksThen 4 .nack) [])) (acksThen 4 .nack) [] ∧
    Replies (answering (external (acks 5) [.terr])) (acks 5) [.terr] ∧
    Replies (answering (external (acks 5) [.delivered 0x08])) (acks 5) [.delivered 0x08] ∧
    OnEmulator (answering enabled) ∧ ∀ s, (answering s).host = .answerDelay :: [] := by
  refine ⟨?_, ?_, ?_, ?_, ?_, ?_, ?_, ?_, ?_, ?_, fun _ => rfl⟩ <;> decide

theorem witness_MeasureReportsTheFrame :
    ((0x80000001 : Word).extractLsb' 28 4 = 0x8 ∧ (0x80000001 : Word).extractLsb' 0 28 ≠ 0) ∧
    State.reset.busEn = false ∧ AckOutcome.terr ≠ .ack ∧ AckOutcome.nack ≠ .ack ∧
    Replies (external [.nack] []) (acksThen 0 .nack) [] ∧
    Replies (external (acksThen 3 .terr) []) (acksThen 3 .terr) [] ∧
    Replies (answering (external (acksThen 4 .nack) [])) (acksThen 4 .nack) [] ∧
    Replies (answering (external (acks 5) [.terr])) (acks 5) (bytesThenTerr 0) ∧
    Replies (answering (external (acks 5) (bytesThenTerr 5))) (acks 5) (bytesThenTerr 5) ∧
    Replies (answering (external (acks 5) (bytes 6))) (acks 5) (bytes 6) ∧
    OnEmulator (answering enabled) ∧ ∀ s, (answering s).host = .answerDelay :: [] := by
  refine ⟨?_, ?_, ?_, ?_, ?_, ?_, ?_, ?_, ?_, ?_, ?_, fun _ => rfl⟩ <;> decide

theorem witness_BeginWithTheEmulatorIsAlwaysReady :
    enabled.hung = false ∧ enabled.busEn = true ∧ enabled.params.endpoint = .emulator ∧
    see (afterHost enabled [.regWrite 0x00 0x70000000, .answerDelay]) (fun t => (t.ahtResult, t.ahtStatus, t.host))
      = some (.ok, 0x08, []) := by decide

theorem witness_UnansweredDelayHangsTheBlock :
    { State.reset with hung := true }.hung = true ∧ OnEmulator enabled ∧ (∀ rest, enabled.host ≠ .answerDelay :: rest) ∧
    Replies { external (acks 4) [] with host := [.reset] } (acks 4) [] ∧
    ∀ rest, { external (acks 4) [] with host := [.reset] }.host ≠ .answerDelay :: rest :=
  ⟨rfl, by decide, by simp [enabled, State.reset, State.resetWith], by decide, by simp⟩

theorem witness_ConversionsAreExact :
    (0x00000000 : Word).toNat < 1048576 ∧ (0x000FFFFF : Word).toNat < 1048576 := by decide

theorem witness_DecodeExtractsAndConverts :
    ((0x90000001 : Word).extractLsb' 28 4 = 0x9 ∧ (0x90000001 : Word).extractLsb' 0 28 ≠ 0) ∧
    { State.reset with frame := cannedFrame }.frame = #v[0x08, 0xAA, 0xAA, 0xAB, 0xBB, 0xBB] ∧
    State.reset.frame = #v[0, 0, 0, 0, 0, 0] ∧
    { State.reset with frame := #v[0xFF, 0xFF, 0xFF, 0xFF, 0xFF, 0xFF] }.frame =
      #v[0xFF, 0xFF, 0xFF, 0xFF, 0xFF, 0xFF] := by decide

theorem witness_ConvConvertsRawIn :
    ((0xA0000002 : Word).extractLsb' 28 4 = 0xA ∧ (0xA0000002 : Word).extractLsb' 1 27 ≠ 0) ∧
    ((0xA8000000 : Word).extractLsb' 28 4 = 0xA ∧ (0xA8000000 : Word).extractLsb' 1 27 ≠ 0) := by decide

theorem witness_EmulatorTransitionTable :
    Emulator.reset.onStart.awaitAddr = true ∧ ((0x72 : Byte) ≠ 0x70 ∧ (0x72 : Byte) ≠ 0x71) ∧
    (∀ k : Fin 4, (emulatorIn .receivingCommand k 0).awaitAddr = false ∧
      (emulatorIn .receivingCommand k 0).st = .receivingCommand ∧ (emulatorIn .receivingCommand k 0).cmdCnt = k) ∧
    (Emulator.reset.awaitAddr = false ∧ Emulator.reset.st = .idle) ∧
    ((emulatorIn .sendingData 0 0).awaitAddr = false ∧ (emulatorIn .sendingData 0 0).st = .sendingData) ∧
    ((emulatorIn .sendingData 0 0).sendCnt.val = (0 : Fin 5).val ∧
      (emulatorIn .sendingData 0 4).sendCnt.val = (4 : Fin 5).val ∧ (emulatorIn .sendingData 0 5).sendCnt = 5) := by
  decide

theorem witness_EmulatorAddressRowsOpenATransaction :
    (State.reset.params.endpoint = .emulator ∧ { State.reset with emu := Emulator.reset.onStart }.emu.awaitAddr = true) ∧
    (State.reset.emu.awaitAddr = false ∧ State.reset.emu.st ≠ .receivingCommand) ∧
    (external [] []).params.endpoint = .external := by decide

theorem witness_EmulatorFrameRowsSetTheSensorFlags :
    State.reset.params.endpoint = .emulator ∧ (emulatorIn .receivingCommand 0 0).awaitAddr = false ∧
    ((emulatorIn .receivingCommand 0 0).st = .receivingCommand ∧ (emulatorIn .receivingCommand 0 0).cmdCnt = 0) ∧
    ((emulatorIn .sendingData 0 0).awaitAddr = false ∧ (emulatorIn .sendingData 0 0).st ≠ .receivingCommand) ∧
    (external [] []).params.endpoint = .external := by decide

theorem witness_UnrecognizedFrameChangesNoFlag :
    (emulatorIn .receivingCommand 0 0).awaitAddr = false ∧ (emulatorIn .receivingCommand 0 0).st = .receivingCommand ∧
    (emulatorIn .receivingCommand 0 0).cmdCnt = 0 ∧ ([0xBE, 0x08, 0x01] : List Byte) ≠ [0xBE, 0x08, 0x00] ∧
    ([0xBE, 0x08, 0x01] : List Byte) ≠ [0xAC, 0x33, 0x00] := by decide

theorem witness_EmulatorInvariantIsKept : (emulatorIn .receivingCommand 2 0).Inv ∧ (emulatorIn .sendingData 0 5).Inv :=
  ⟨⟨by decide, by decide, by decide, by decide⟩, ⟨by decide, by decide, by decide, by decide⟩⟩

theorem witness_NopDoesNothing :
    (0x00000001 : Word).extractLsb' 28 4 = 0x0 ∧ (0x00000001 : Word).extractLsb' 0 28 ≠ 0 := by decide

theorem witness_ClrerrClearsErr :
    (0xB0000001 : Word).extractLsb' 28 4 = 0xB ∧ (0xB0000001 : Word).extractLsb' 0 28 ≠ 0 := by decide

theorem witness_ResetLeavesTheResetValues :
    { opened with host := [HostAction.reset] }.hung = false ∧ { opened with host := [HostAction.reset] }.host = .reset :: [] ∧
    Reg.status ≠ .config := by decide

theorem witness_StepRunsTheDecodedCommand :
    enabled.hung = false ∧
    { enabled with host := [HostAction.regWrite 0x00 0x507F000F] }.host = .regWrite 0x00 0x507F000F :: [] ∧
    decode (.cmd32 0x507F000F) = .ok (.fwr 0x7F 15) := by decide

theorem witness_StepRunsTheEmulatorRow :
    (opened.hung = false ∧ opened.busEn = true ∧ opened.busOpen = true ∧ opened.params.endpoint = .emulator) ∧
    { opened with host := [HostAction.regWrite 0x00 0x30000071] }.host =
      .regWrite 0x00 (0x30000000 ||| (0x71 : Byte).setWidth 32) :: [] ∧
    (Emulator.reset.onStart.awaitAddr = true ∧ decode (.addr8 0x71) = .ok .emuAddrR) ∧
    ((emulatorIn .receivingCommand 2 0).awaitAddr = false ∧ (emulatorIn .receivingCommand 2 0).st = .receivingCommand ∧
      (emulatorIn .receivingCommand 2 0).cmdCnt = 2 ∧
      decode (.cmd24 (frameValue [(#v[0xBE, 0x08, 0x00] : Vector Byte 3)[0], (#v[0xBE, 0x08, 0x00] : Vector Byte 3)[1], 0x00]))
        = .ok .emuCal) := by decide

/-- Each check met only where it is asked: NOP from reset, FRD with no transaction open, WRB, and BEGIN with its answer. -/
theorem witness_EveryCommandThatPassesItsChecksCompletes :
    PassesChecks .nop State.reset ∧
    (PassesChecks (.frd 0x7F 15) enabled ∧ enabled.busOpen = false ∧
      see (exec (.frd 0x7F 15) enabled) (·.result) = some (some .ok)) ∧
    PassesChecks (.wrb 0xFF) opened ∧
    (PassesChecks .begin (answering enabled) ∧ (answering enabled).host = .answerDelay :: []) := by decide

theorem witness_StepStopsOnlyInAHang :
    State.reset.hung = false ∧ { State.reset with hung := true }.hung = true ∧ State.reset.host = [] := by decide

theorem witness_StepKeepsTheInvariant :
    State.Inv { enabled with host := [.regWrite 0x00 0x50380003] } ∧
    see (step { enabled with host := [.regWrite 0x00 0x50380003] }) (·.count) = some 3 :=
  ⟨⟨⟨by decide, by decide, by decide, by decide⟩, by decide, by decide, by simp [enabled, State.reset], by decide⟩,
    by decide⟩

theorem witness_EmulatorFollowsTheLog :
    State.EmulatorFollowsLog { opened with log := [.start], emu := Emulator.reset.onStart } ∧
    see (afterHost { opened with log := [.start], emu := Emulator.reset.onStart } [.regWrite 0x00 0x30000070]) (·.emu.st)
      = some .receivingCommand :=
  ⟨rfl, by decide⟩

theorem witness_LogGrowsAndTheEmulatorNeverFails :
    opened.params.endpoint = .emulator ∧
    see (afterHost opened [.regWrite 0x00 0x40000000]) (·.log) = some [.read .ack (.delivered 0xFF)] := by decide

theorem witness_SensorFlagsPersist :
    Emulator.reset.calibrate.calibrated = true ∧ Emulator.reset.calibrate.trigger.measTriggered = true ∧
    (∀ rest, { opened with host := [HostAction.regWrite 0x00 0x20000000] }.host ≠ .reset :: rest) ∧
    see (afterHost { opened with emu := Emulator.reset.calibrate } [.regWrite 0x00 0x20000000]) (·.emu.calibrated)
      = some true ∧
    (external [] []).params.endpoint = .external :=
  ⟨rfl, rfl, by simp, by decide, rfl⟩

theorem witness_UnavailableBusStaysSilent :
    (State.resetWith { Params.standard with busAvailable := false }).params.busAvailable = false ∧
    (State.resetWith { Params.standard with busAvailable := false }).busEn = false ∧
    see (afterHost (State.resetWith { Params.standard with busAvailable := false }) [.regWrite 0x08 1]) (·.busEn)
      = some false := by decide

theorem witness_RegistersAreWrittenOnlyByTheirWriters :
    see (exec .decode State.reset) (·.temp) = some 0xFFFFFFCE ∧ see (exec (.conv .humidity) State.reset) (·.temp) = some 0 ∧
    see (exec (.wrb 0x70) (external [.nack] [])) (fun t => (t.outcome, t.count, t.busOpen)) = some (.nack, 0, true) := by
  decide

theorem witness_HostLinesExpand :
    encode .begin = .cmd32 0x70000000 ∧ (List.replicate 16 (0xA5 : Byte)).length ≤ 16 ∧ ([] : List Byte).length ≤ 15 ∧
    (List.replicate 6 (0xA5 : Byte)).length = 6 ∧ (List.replicate 15 (0xA5 : Byte)).length ≤ 15 := by decide

/-- R61: a run in which no error was raised. -/
theorem test_no_error :
    State.NoError State.reset ∧ see (afterHost State.reset [.regWrite 0x08 1]) (·.errorRecord) = some [] :=
  ⟨rfl, by decide⟩

end Sys2Proof.Tests
end

section
/-!
PROOFS. The error record (10_state.md R61): what every access of the host answers, and that nothing shortens the record.
-/

namespace Sys2Proof.Machine

/-- The offset of the host access the next step makes, if it makes one. -/
def State.nextAccess (s : State) : Option Offset :=
  match s.host with
  | .regRead off :: _ | .regWrite off _ :: _ => some off
  | [] | .answerDelay :: _ | .reset :: _ => none

/-- The two ends of a host access (R81, R291): the error response at its offset, or another answer that leaves the error
record as it is. -/
inductive AccessEnd (s t : State) (off : Offset) : Prop
  | raised (c : ErrorCode) (h : t = s.raise c off)
  | answered (hr : ∀ c, t.result ≠ some (.err c)) (he : t.errorRecord = s.errorRecord)

theorem eq_zero_of_regAtIndex_cmd {k : Nat} (h : regAtIndex k = some .cmd) : k = 0 := by
  unfold regAtIndex at h
  split at h
  case h_1 => rfl
  case h_13 =>
    split at h
    · simp at h
    · split at h <;> simp at h
  all_goals simp at h

/-- CMD has one offset (R32, R82). -/
theorem eq_cmdOffset_of_regAt {off : Offset} (h : regAt off = some .cmd) : off = cmdOffset := by
  unfold regAt at h
  split at h
  case isTrue haligned =>
    have hindex := eq_zero_of_regAtIndex_cmd h
    exact BitVec.eq_of_toNat_eq (show off.toNat = 0 by omega)
  case isFalse => simp at h

/-- A read raises E_UNMAPPED or answers a value (R85). -/
theorem State.regRead_end (s : State) (off : Offset) : AccessEnd s (s.regRead off) off := by
  cases hr : regAt off with
  | none => exact .raised .unmapped (by simp [State.regRead, hr])
  | some r => exact .answered (by simp [State.regRead, hr]) (by simp [State.regRead, hr])

/-- A write of a writable register other than CMD raises no error (R86). -/
theorem State.storeReg_end (s : State) {r : Reg} (v : Word) (off : Offset) (hw : isReadOnly r = false) (hc : r ≠ .cmd) :
    AccessEnd s (s.storeReg r v) off := by
  cases r with
  | config | rawIn | data i | frame i => exact .answered (by simp [State.storeReg]) rfl
  | cmd => exact absurd rfl hc
  | status | rxb | ahtStatus | rawH | rawT | hum | temp | emuDbg | emuCmdbuf => cases hw

/-- The one error a host command can answer is recorded at the offset of CMD (R115, R295, R296). -/
theorem exec_end {i : Instr} {s t : State} (hi : i.isHostCommand = true) (h : exec i s = .next t) :
    AccessEnd s t cmdOffset := by
  cases exec_cases hi s with
  | raised c hc => exact .raised c (by simpa [h] using hc)
  | completed u w hu =>
    obtain rfl : t = u.complete i := by simpa [h] using hu
    exact .answered (by simp) w.errorRecord
  | hangs u w hu =>
    obtain rfl : t = u.hang := by simpa [h] using hu
    exact .answered (by simp) w.errorRecord

/-- A step makes the host access it has next and ends it one way or the other, or it makes none and leaves the error record
(R61, R88, R320, R321). -/
theorem step_end {s t : State} (h : step s = .next t) :
    (∃ off, s.nextAccess = some off ∧ AccessEnd { s with host := s.host.tail } t off) ∨
    (s.nextAccess = none ∧ t.errorRecord = s.errorRecord) := by
  rcases step_cases s with ⟨-, hf⟩ | ⟨-, hs, hn⟩ | ⟨a, rest, -, hs, hcase⟩
  · simp [hf] at h
  · obtain rfl : s = t := by simpa [hn] using h
    exact .inr ⟨by simp [State.nextAccess, hs], rfl⟩
  · simp only [State.nextAccess, hs, List.tail_cons]
    rcases hcase with ⟨off, rfl, hn⟩ | ⟨off, v, c, rfl, hn⟩ | ⟨off, v, r, rfl, -, hw, hc, hn⟩ |
      ⟨off, v, i, rfl, hr, hd, hn⟩ | ⟨rfl, hn⟩ | ⟨rfl, hn⟩ <;> rw [h] at hn
    · cases hn
      exact .inl ⟨off, rfl, State.regRead_end _ off⟩
    · cases hn
      exact .inl ⟨off, rfl, .raised c rfl⟩
    · cases hn
      exact .inl ⟨off, rfl, State.storeReg_end _ v off hw hc⟩
    · obtain rfl := eq_cmdOffset_of_regAt hr
      exact .inl ⟨cmdOffset, rfl, exec_end (decode_isHostCommand hd) hn.symm⟩
    · cases hn
      exact .inr ⟨rfl, rfl⟩
    · cases hn
      exact .inr ⟨rfl, rfl⟩

/-- Settles O14: a step ends an access as an error response, which appends, or leaves the record. -/
theorem errorRecordIsNeverCleared : Obligations.ErrorRecordIsNeverCleared := by
  unfold Obligations.ErrorRecordIsNeverCleared
  refine ⟨State.resetWith_errorRecord, fun s t h => ?_, fun s t rest off v c _ hs h hr => ?_⟩
  · rcases step_end h with ⟨off, -, hend⟩ | ⟨-, hkept⟩
    · cases hend with
      | raised c ht => exact .inr ⟨c, off, by rw [ht]; exact ⟨rfl, rfl⟩⟩
      | answered _ hkept => exact .inl hkept
    · exact .inl hkept
  · have ha : s.nextAccess = some off := by rcases hs with hs | hs <;> simp [State.nextAccess, hs]
    rcases step_end h with ⟨off', ha', hend⟩ | ⟨hnone, -⟩
    · obtain rfl : off = off' := by simpa [ha] using ha'
      cases hend with
      | raised c' ht =>
        subst ht
        obtain rfl : c' = c := by simpa using hr
        rfl
      | answered hno _ => exact absurd hr (hno c)
    · simp [ha] at hnone

end Sys2Proof.Machine
end

section
/-!
PROOFS. CONFIG, EMU_DBG and EMU_CMDBUF as words (10_state.md R41, R50, R51): which field shows in which bits.
-/

namespace Sys2Proof.Machine

/-! ### The pieces of a register word: how many bits each takes -/

/-- A flag is bit 0 of its word. -/
@[simp] theorem bitWord_getElem (b : Bool) (i : Nat) (hi : i < 32) : (bitWord b)[i] = (decide (i = 0) && b) := by
  cases b <;> simp [bitWord]

theorem getElem_eq_false_of_toNat_lt {n k i : Nat} {v : BitVec n} (h : v.toNat < 2 ^ k) (hk : k ≤ i) (hi : i < n) :
    v[i] = false :=
  Nat.testBit_lt_two_pow (h.trans_le (Nat.pow_le_pow_right (by decide) hk))

theorem emuStateCode_getElem (st : EmuState) {i : Nat} (hk : 2 ≤ i) (hi : i < 32) : (emuStateCode st)[i] = false :=
  getElem_eq_false_of_toNat_lt (by cases st <;> decide) hk hi

theorem cmdCntBits_getElem (c : Fin 4) {i : Nat} (hk : 2 ≤ i) (hi : i < 32) : (BitVec.ofNat 32 c.val)[i] = false :=
  getElem_eq_false_of_toNat_lt (by simp; omega) hk hi

theorem sendCntBits_getElem (c : Fin 7) {i : Nat} (hk : 3 ≤ i) (hi : i < 32) : (BitVec.ofNat 32 c.val)[i] = false :=
  getElem_eq_false_of_toNat_lt (by simp; omega) hk hi

/-! ### CONFIG -/

/-- CONFIG bit by bit (R41). -/
theorem configWord_getElem (s : State) (i : Nat) (hi : i < 32) : (configWord s)[i] =
    (decide (i = 0) && s.busEn || decide (i = 1) && s.params.busAvailable ||
      decide (i = 2) && (s.params.endpoint == .external)) := by
  match i with
  | 0 | 1 | 2 => simp [configWord]
  | i + 3 => simp [configWord]

theorem configWord_reserved (s : State) : (configWord s).extractLsb' 3 29 = 0 := by
  refine BitVec.eq_of_getElem_eq fun i hi => ?_
  interval_cases i <;> simp [configWord_getElem]

/-- Settles O8: CONFIG is read off its bits, and a write of it is the CONFIG case of the host write. -/
theorem configShowsAndTakesBusEnable : Obligations.ConfigShowsAndTakesBusEnable := by
  unfold Obligations.ConfigShowsAndTakesBusEnable
  intro s v p
  have hwrite : regWrite s 0x08 v = .next (s.storeReg .config v) := rfl
  exact ⟨by simp [configWord_getElem], by simp [configWord_getElem], by simp [configWord_getElem],
    configWord_reserved s, hwrite, State.resetWith_busEn p, State.resetWith_params p⟩

/-! ### The fields of EMU_DBG and EMU_CMDBUF with the emulator as endpoint -/

/-- EMU_DBG.STATE (R50). -/
theorem emuDbgBits_state (e : Emulator) : (emuDbgBits e).extractLsb' 0 2 = (emuStateCode e.st).extractLsb' 0 2 := by
  refine BitVec.eq_of_getElem_eq fun i hi => ?_
  interval_cases i <;> simp [emuDbgBits]

/-- EMU_DBG.CMD_CNT (R50). -/
theorem emuDbgBits_cmdCnt (e : Emulator) : ((emuDbgBits e).extractLsb' 8 2).toNat = e.cmdCnt.val := by
  have hbits : (emuDbgBits e).extractLsb' 8 2 = (BitVec.ofNat 32 e.cmdCnt.val).extractLsb' 0 2 := by
    refine BitVec.eq_of_getElem_eq fun i hi => ?_
    interval_cases i <;> simp [emuDbgBits, emuStateCode_getElem]
  simp [hbits]

/-- EMU_DBG.SEND_CNT (R50). -/
theorem emuDbgBits_sendCnt (e : Emulator) : ((emuDbgBits e).extractLsb' 12 3).toNat = e.sendCnt.val := by
  have hbits : (emuDbgBits e).extractLsb' 12 3 = (BitVec.ofNat 32 e.sendCnt.val).extractLsb' 0 3 := by
    refine BitVec.eq_of_getElem_eq fun i hi => ?_
    interval_cases i <;> simp [emuDbgBits, emuStateCode_getElem, cmdCntBits_getElem]
  rw [hbits, BitVec.extractLsb'_toNat, BitVec.toNat_ofNat, Nat.shiftRight_zero]
  omega

/-- EMU_DBG's AWAIT_ADDR, CALIBRATED and MEAS_TRIGGERED (R50). -/
theorem emuDbgBits_flags (e : Emulator) :
    (emuDbgBits e).getLsbD 2 = e.awaitAddr ∧ (emuDbgBits e).getLsbD 3 = e.calibrated ∧
      (emuDbgBits e).getLsbD 4 = e.measTriggered := by
  simp [emuDbgBits, emuStateCode_getElem]

/-- The reserved bits of EMU_DBG (R50). -/
theorem emuDbgBits_reserved (e : Emulator) :
    (emuDbgBits e).extractLsb' 5 3 = 0 ∧ (emuDbgBits e).extractLsb' 10 2 = 0 ∧
      (emuDbgBits e).extractLsb' 15 17 = 0 := by
  refine ⟨?_, ?_, ?_⟩ <;> refine BitVec.eq_of_getElem_eq fun i hi => ?_
  · interval_cases i <;> simp [emuDbgBits, emuStateCode_getElem]
  · interval_cases i <;> simp [emuDbgBits, emuStateCode_getElem, cmdCntBits_getElem]
  · interval_cases i <;> simp [emuDbgBits, emuStateCode_getElem, cmdCntBits_getElem, sendCntBits_getElem]

/-- The four bytes of EMU_CMDBUF (R51). -/
theorem emuCmdbufBits_bytes (e : Emulator) :
    (emuCmdbufBits e).extractLsb' 0 8 = e.cmdBuf[0] ∧ (emuCmdbufBits e).extractLsb' 8 8 = e.cmdBuf[1] ∧
      (emuCmdbufBits e).extractLsb' 16 8 = e.cmdBuf[2] ∧ (emuCmdbufBits e).extractLsb' 24 8 = 0 := by
  refine ⟨?_, ?_, ?_, ?_⟩ <;> refine BitVec.eq_of_getElem_eq fun i hi => ?_
  all_goals interval_cases i <;> simp [emuCmdbufBits]

/-! ### The two views by endpoint -/

theorem emuDbgWord_emulator {s : State} (h : s.params.endpoint = .emulator) : emuDbgWord s = emuDbgBits s.emu := by
  simp [emuDbgWord, h]

theorem emuCmdbufWord_emulator {s : State} (h : s.params.endpoint = .emulator) :
    emuCmdbufWord s = emuCmdbufBits s.emu := by
  simp [emuCmdbufWord, h]

theorem emuViews_external {s : State} (h : s.params.endpoint = .external) :
    emuDbgWord s = 0 ∧ emuCmdbufWord s = 0 := by
  simp [emuDbgWord, emuCmdbufWord, h]

theorem emuViews_resetWith (p : Params) :
    emuDbgWord (State.resetWith p) = 0 ∧ emuCmdbufWord (State.resetWith p) = 0 := by
  cases h : p.endpoint with
  | emulator =>
    rw [emuDbgWord_emulator h, emuCmdbufWord_emulator h, State.resetWith_emu]
    decide
  | external => exact emuViews_external h

/-- Settles O9: with the emulator each word is read off its fields; with an external endpoint and at reset it is 0. -/
theorem emulatorViewsShowTheEmulator : Obligations.EmulatorViewsShowTheEmulator := by
  unfold Obligations.EmulatorViewsShowTheEmulator
  refine fun s => ⟨fun h => ?_, emuViews_external, emuViews_resetWith⟩
  rw [emuDbgWord_emulator h, emuCmdbufWord_emulator h]
  obtain ⟨hawait, hcal, hmeas⟩ := emuDbgBits_flags s.emu
  obtain ⟨hgap5, hgap10, hgap15⟩ := emuDbgBits_reserved s.emu
  have hstate : (emuStateCode s.emu.st).extractLsb' 0 2 =
      (match s.emu.st with | .idle => 0 | .receivingCommand => 1 | .sendingData => 2) := by
    cases s.emu.st <;> rfl
  exact ⟨(emuDbgBits_state s.emu).trans hstate, hawait, hcal, hmeas, hgap5, emuDbgBits_cmdCnt s.emu, hgap10,
    emuDbgBits_sendCnt s.emu, hgap15, emuCmdbufBits_bytes s.emu⟩

end Sys2Proof.Machine
end

section
/-!
PROOFS. The host port (20_memory.md R82 to R86): which offset names which register, and what a read and a write of it answer.
-/

namespace Sys2Proof.Machine

/-! ### The register map -/

/-- The register at word index `k` has the offset 4 * k (R32). -/
theorem offsetOf_of_regAtIndex {k : Nat} {r : Reg} (h : regAtIndex k = some r) : (offsetOf r).toNat = 4 * k := by
  unfold regAtIndex at h
  split at h
  case h_13 =>
    split at h
    · obtain rfl := Option.some.inj h
      simp only [offsetOf, BitVec.toNat_ofNat]
      omega
    · split at h
      · obtain rfl := Option.some.inj h
        simp only [offsetOf, BitVec.toNat_ofNat]
        omega
      · cases h
  all_goals
    obtain rfl := Option.some.inj h
    rfl

/-- The word indexes that hold a register (R82). -/
theorem exists_regAtIndex_iff (k : Nat) : (∃ r, regAtIndex k = some r) ↔ k < 12 ∨ 16 ≤ k ∧ k < 38 := by
  unfold regAtIndex
  split
  case h_13 =>
    have hrest : 12 ≤ k := by grind
    by_cases hdata : 16 ≤ k ∧ k < 32
    · simp only [dif_pos hdata, Option.some.injEq, exists_eq', true_iff]
      omega
    by_cases hframe : 32 ≤ k ∧ k < 38
    · simp only [dif_neg hdata, dif_pos hframe, Option.some.injEq, exists_eq', true_iff]
      omega
    · simp only [dif_neg hdata, dif_neg hframe, reduceCtorEq, exists_false, false_iff]
      omega
  all_goals simp

/-- The offsets that name a register are the aligned ones of the three ranges of the map (R82). -/
theorem exists_regAt_iff (off : Offset) : (∃ r, regAt off = some r) ↔
    off.toNat % 4 = 0 ∧ (off.toNat ≤ 0x2C ∨ (0x40 ≤ off.toNat ∧ off.toNat ≤ 0x7C) ∨
      (0x80 ≤ off.toNat ∧ off.toNat ≤ 0x94)) := by
  unfold regAt
  split
  case isTrue haligned =>
    rw [exists_regAtIndex_iff]
    omega
  case isFalse hmis => simp [hmis]

/-- The offset of a register names it (R32). -/
@[simp] theorem regAt_offsetOf (r : Reg) : regAt (offsetOf r) = some r := by
  cases r with
  | data i => revert i; decide
  | frame i => revert i; decide
  | cmd | status | config | rxb | ahtStatus | rawIn | rawH | rawT | hum | temp | emuDbg | emuCmdbuf => rfl

/-- No other offset names the register (R32, R82). -/
theorem regAt_eq_some_iff {off : Offset} {r : Reg} : regAt off = some r ↔ offsetOf r = off := by
  constructor
  · intro h
    unfold regAt at h
    split at h
    case isTrue haligned =>
      have hindex := offsetOf_of_regAtIndex h
      exact BitVec.eq_of_toNat_eq (by omega)
    case isFalse => cases h
  · rintro rfl
    exact regAt_offsetOf r

/-- Settles O4: the domain of the map, and each register at the offset it is listed at. -/
theorem offsetsThatNameARegister : Obligations.OffsetsThatNameARegister := by
  unfold Obligations.OffsetsThatNameARegister
  exact fun off => ⟨exists_regAt_iff off, fun r => regAt_eq_some_iff,
    regAt_offsetOf .cmd, regAt_offsetOf .status, regAt_offsetOf .config, regAt_offsetOf .rxb,
    regAt_offsetOf .ahtStatus, regAt_offsetOf .rawIn, regAt_offsetOf .rawH, regAt_offsetOf .rawT,
    regAt_offsetOf .hum, regAt_offsetOf .temp, regAt_offsetOf .emuDbg, regAt_offsetOf .emuCmdbuf,
    fun i => regAt_offsetOf (.data i), fun i => regAt_offsetOf (.frame i)⟩

/-! ### The error response and the two accesses -/

/-- The trap of the model is the error response written out (R291). -/
theorem State.raise_eq_errorResponse (s : State) (c : ErrorCode) (off : Offset) : s.raise c off = errorResponse s c off := by
  cases h : s.err <;> simp [State.raise, errorResponse, firstError, h]

theorem State.regRead_unmapped (s : State) {off : Offset} (h : regAt off = none) :
    s.regRead off = errorResponse s .unmapped off := by
  simp only [State.regRead, h, State.raise_eq_errorResponse]

theorem State.regRead_register (s : State) {off : Offset} {r : Reg} (h : regAt off = some r) :
    s.regRead off = { s with result := some (.value (regValue s r)) } := by
  simp only [State.regRead, h]

theorem regWrite_unmapped (s : State) {off : Offset} (v : Word) (h : regAt off = none) :
    regWrite s off v = .next (errorResponse s .unmapped off) := by
  simp only [regWrite, h, State.raise_eq_errorResponse]

theorem regWrite_readOnly (s : State) {r : Reg} (v : Word) (h : isReadOnly r = true) :
    regWrite s (offsetOf r) v = .next (errorResponse s .readOnly (offsetOf r)) := by
  simp only [regWrite, regAt_offsetOf, h, if_true, State.raise_eq_errorResponse]

/-- A writable register other than CMD takes the word (R86). -/
theorem regWrite_store (s : State) {r : Reg} (v : Word) (hw : isReadOnly r = false) (hc : r ≠ .cmd) :
    regWrite s (offsetOf r) v = .next (s.storeReg r v) := by
  simp [regWrite, hw, hc]

theorem executeWord_ok (s : State) {v : Word} {i : Instr} (h : decode (.cmd32 v) = .ok i) : executeWord s v = exec i s := by
  simp only [executeWord, h]

/-- A word that decodes to no command is refused (R114, R294). -/
theorem executeWord_illegal (s : State) {v : Word} (h : ∀ i, decode (.cmd32 v) ≠ .ok i) :
    executeWord s v = .next (errorResponse s .illegalCmd cmdOffset) := by
  cases hd : decode (.cmd32 v) with
  | ok i => exact absurd hd (h i)
  | error e => simp only [executeWord, hd, State.raise_eq_errorResponse]

/-- The nine registers that R293 lists are read-only. -/
theorem isReadOnly_of_mem {r : Reg}
    (h : r ∈ [Reg.status, .rxb, .ahtStatus, .rawH, .rawT, .hum, .temp, .emuDbg, .emuCmdbuf]) : isReadOnly r = true := by
  revert r
  decide

/-- A store into a byte buffer changes that byte alone. -/
theorem getElem_setByte {n : Nat} (buf : Vector Byte n) (i j : Fin n) (b : Byte) :
    (buf.set i b)[j] = if j = i then b else buf[j] := by
  simp [Vector.getElem_set, Fin.ext_iff, eq_comm]

/-! ### The statements of the accesses -/

/-- Settles O11: each register's case of the write, and for the two buffers the one byte that changes. -/
theorem hostWriteByItsOffset : Obligations.HostWriteByItsOffset := by
  unfold Obligations.HostWriteByItsOffset
  refine fun s v => ⟨fun off h => regWrite_unmapped s v h, fun r h => regWrite_readOnly s v (isReadOnly_of_mem h),
    fun i h => (regWrite_cmd s v).trans (executeWord_ok s h), fun h => (regWrite_cmd s v).trans (executeWord_illegal s h),
    regWrite_store s (r := .config) v rfl (by decide), regWrite_store s (r := .rawIn) v rfl (by decide),
    fun i => ?_, fun i => ?_⟩
  · refine ⟨_, regWrite_store s (r := .data i) v rfl (by simp), rfl, fun j => getElem_setByte s.data i j _, ?_⟩
    exact congrArg (BitVec.setWidth 32) ((getElem_setByte s.data i i _).trans (if_pos rfl))
  · refine ⟨_, regWrite_store s (r := .frame i) v rfl (by simp), rfl, fun j => getElem_setByte s.frame i j _, ?_⟩
    exact congrArg (BitVec.setWidth 32) ((getElem_setByte s.frame i i _).trans (if_pos rfl))

/-- The next action of the host happens when the block is not hung (R88). -/
theorem step_host_cons {s : State} (a : HostAction) (rest : List HostAction) (h : s.hung = false) :
    step { s with host := a :: rest } = hostStep { s with host := rest } a :=
  step_cons (s := { s with host := a :: rest }) h rfl

/-- Misaligned offsets and the two gaps of the map name no register (R83, R84). -/
theorem regAt_outside {off : Offset} (h : off.toNat % 4 ≠ 0 ∨ (0x30 ≤ off.toNat ∧ off.toNat ≤ 0x3C) ∨ 0x98 ≤ off.toNat) :
    regAt off = none := by
  refine Option.eq_none_iff_forall_ne_some.mpr fun r hr => ?_
  have hmapped := (exists_regAt_iff off).mp ⟨r, hr⟩
  omega

/-- Settles O5: such an offset names no register, so both accesses end in the error response. -/
theorem accessOutsideTheMapRaisesUnmapped : Obligations.AccessOutsideTheMapRaisesUnmapped := by
  unfold Obligations.AccessOutsideTheMapRaisesUnmapped
  intro s rest off v hh hoff
  have hnone := regAt_outside hoff
  rw [step_host_cons _ rest hh, step_host_cons _ rest hh]
  exact ⟨congrArg _ (State.regRead_unmapped _ hnone), regWrite_unmapped _ v hnone, rfl⟩

theorem emuDbgWord_eq (s : State) : emuDbgWord s = if s.params.endpoint = .external then 0 else emuDbgBits s.emu := by
  cases h : s.params.endpoint with
  | emulator => exact emuDbgWord_emulator h
  | external => exact (emuViews_external h).1

theorem emuCmdbufWord_eq (s : State) :
    emuCmdbufWord s = if s.params.endpoint = .external then 0 else emuCmdbufBits s.emu := by
  cases h : s.params.endpoint with
  | emulator => exact emuCmdbufWord_emulator h
  | external => exact (emuViews_external h).2

/-- No register shows the host's actions to come. -/
theorem regValue_withHost (s : State) (rest : List HostAction) (r : Reg) :
    regValue { s with host := rest } r = regValue s r := by
  cases r <;> rfl

/-- Settles O6: the read answers `regValue`, which is the register listed, the two views by the endpoint. -/
theorem readAnswersTheRegisterAndChangesNothing : Obligations.ReadAnswersTheRegisterAndChangesNothing := by
  unfold Obligations.ReadAnswersTheRegisterAndChangesNothing
  intro s rest off hh
  rw [step_host_cons _ rest hh]
  refine ⟨fun h => congrArg _ (State.regRead_unmapped _ h), fun r h => ⟨regValue s r, ?_, ?_⟩⟩
  · exact congrArg _ ((State.regRead_register _ h).trans (by rw [regValue_withHost]))
  · cases r with
    | emuDbg => exact emuDbgWord_eq s
    | emuCmdbuf => exact emuCmdbufWord_eq s
    | cmd | status | config | rxb | ahtStatus | rawIn | rawH | rawT | hum | temp | data i | frame i => rfl

end Sys2Proof.Machine
end

section
/-!
PROOFS. The opcode map (30_encoding.md R110 to R114): a row's mask and match say which fields of a word are fixed, and the
command decoder accepts exactly the words that agree with a row on them.
-/

namespace Sys2Proof.Machine

/-! ### Masks as fields -/

/-- The mask of the field of `width` bits that begins at bit `lo` (R110). -/
def fieldMask (lo width : Nat) : Word := (BitVec.allOnes width).setWidth 32 <<< lo

/-- The mask of several fields, each its first bit and its width. -/
def fieldsMask : List (Nat × Nat) → Word
  | [] => 0
  | f :: fs => fieldMask f.1 f.2 ||| fieldsMask fs

theorem fieldMask_getElem (lo width i : Nat) (hi : i < 32) :
    (fieldMask lo width)[i] = decide (lo ≤ i ∧ i < lo + width) := by
  simp only [fieldMask, BitVec.getElem_shiftLeft, BitVec.getElem_setWidth, BitVec.getLsbD_allOnes]
  grind

/-- Two words agree under the mask of a field exactly when they have the field in common. -/
theorem and_fieldMask_eq_iff (v m : Word) (lo width : Nat) :
    v &&& fieldMask lo width = m &&& fieldMask lo width ↔ bitField v lo width = bitField m lo width := by
  constructor <;> intro h <;> refine BitVec.eq_of_getLsbD_eq fun i hi => ?_
  · have hbit := congrArg (·.getLsbD (lo + i)) h
    rcases lt_or_ge (lo + i) 32 with hword | hword
    · simpa [fieldMask_getElem, bitField, hi, hword] using hbit
    · simp [bitField, hword]
  · by_cases hfield : lo ≤ i ∧ i < lo + width
    · obtain ⟨hlo, hwidth⟩ := hfield
      have hbit := congrArg (·.getLsbD (i - lo)) h
      have hin : i - lo < width := by omega
      simpa [fieldMask_getElem, bitField, hi, hlo, hwidth, hin] using hbit
    · simp [fieldMask_getElem, hi, hfield]

/-- Two words agree under a union of masks exactly when they agree under each. -/
theorem and_or_eq_and_or_iff {n : Nat} (v m a b : BitVec n) :
    v &&& (a ||| b) = m &&& (a ||| b) ↔ v &&& a = m &&& a ∧ v &&& b = m &&& b := by
  simp only [BitVec.eq_of_getElem_eq_iff, BitVec.getElem_and, BitVec.getElem_or]
  grind

theorem and_fieldsMask_eq_iff (v m : Word) (fs : List (Nat × Nat)) :
    v &&& fieldsMask fs = m &&& fieldsMask fs ↔ ∀ f ∈ fs, bitField v f.1 f.2 = bitField m f.1 f.2 := by
  induction fs with
  | nil => simp [fieldsMask]
  | cons f fs ih => simp only [fieldsMask, and_or_eq_and_or_iff, and_fieldMask_eq_iff, ih, List.forall_mem_cons]

/-! ### The rows -/

/-- The opcode field of a command word (R110). -/
def opcodeOf (v : Word) : Nat := (bitField v 28 4).toNat

/-- The fields outside the operands of an opcode, each its first bit and its width (R111, R112). -/
def reservedFields : Nat → List (Nat × Nat)
  | 0x3 => [(8, 20)]
  | 0x4 => [(9, 19), (0, 8)]
  | 0x5 | 0x6 => [(23, 5), (4, 12)]
  | 0xA => [(1, 27)]
  | _ => [(0, 28)]

/-- Every bit outside the operand fields of the word's opcode is 0 (R110). -/
def ReservedClear (v : Word) : Prop := ∀ f ∈ reservedFields (opcodeOf v), bitField v f.1 f.2 = 0

theorem row_mask : ∀ r ∈ opcodeTable, r.mask = fieldsMask ((28, 4) :: reservedFields (opcodeOf r.matchBits)) := by
  decide

theorem row_matchBits_masked : ∀ r ∈ opcodeTable, r.matchBits &&& r.mask = r.matchBits := by decide

theorem row_reserved : ∀ r ∈ opcodeTable, ∀ f ∈ reservedFields (opcodeOf r.matchBits), bitField r.matchBits f.1 f.2 = 0 := by
  decide

theorem row_opcode_lt : ∀ r ∈ opcodeTable, opcodeOf r.matchBits < 12 := by decide

theorem exists_row_of_opcode : ∀ op < 12, ∃ r ∈ opcodeTable, opcodeOf r.matchBits = op := by decide

theorem row_eq_of_opcode_eq :
    ∀ r ∈ opcodeTable, ∀ r' ∈ opcodeTable, opcodeOf r'.matchBits = opcodeOf r.matchBits → r' = r := by decide

theorem opcodeOf_eq_iff (v m : Word) : opcodeOf v = opcodeOf m ↔ bitField v 28 4 = bitField m 28 4 :=
  BitVec.toNat_inj

/-- A word matches a row exactly when it has the row's opcode and only operand bits beside it (R112). -/
theorem row_matches_iff {r : OpcodeRow} (hr : r ∈ opcodeTable) (v : Word) :
    v &&& r.mask = r.matchBits ↔ opcodeOf v = opcodeOf r.matchBits ∧ ReservedClear v := by
  have hfields := and_fieldsMask_eq_iff v r.matchBits ((28, 4) :: reservedFields (opcodeOf r.matchBits))
  rw [← row_mask r hr, row_matchBits_masked r hr, List.forall_mem_cons, ← opcodeOf_eq_iff] at hfields
  rw [hfields]
  refine and_congr_right fun hop => ?_
  rw [ReservedClear, hop]
  exact forall₂_congr fun f hf => by rw [row_reserved r hr f hf]

/-- The words of the opcode map (R112, R114). -/
theorem exists_row_matches_iff (v : Word) :
    (∃ r ∈ opcodeTable, v &&& r.mask = r.matchBits) ↔ opcodeOf v < 12 ∧ ReservedClear v := by
  constructor
  · rintro ⟨r, hr, hm⟩
    obtain ⟨hop, hclear⟩ := (row_matches_iff hr v).mp hm
    exact ⟨hop ▸ row_opcode_lt r hr, hclear⟩
  · rintro ⟨hlt, hclear⟩
    obtain ⟨r, hr, hop⟩ := exists_row_of_opcode _ hlt
    exact ⟨r, hr, (row_matches_iff hr v).mpr ⟨hop.symm, hclear⟩⟩

/-- No word matches two rows: the opcode tells the row. -/
theorem row_unique {r r' : OpcodeRow} {v : Word} (hr : r ∈ opcodeTable) (hr' : r' ∈ opcodeTable)
    (hm : v &&& r.mask = r.matchBits) (hm' : v &&& r'.mask = r'.matchBits) : r' = r := by
  obtain ⟨hop, -⟩ := (row_matches_iff hr v).mp hm
  obtain ⟨hop', -⟩ := (row_matches_iff hr' v).mp hm'
  exact row_eq_of_opcode_eq r hr r' hr' (hop'.symm.trans hop)

/-! ### The decoder -/

theorem exists_acceptIf_ok_iff (reservedZero : Bool) (i : Instr) :
    (∃ j, acceptIf reservedZero i = .ok j) ↔ reservedZero = true := by
  cases reservedZero <;> simp [acceptIf]

/-- The words the command decoder accepts (R110, R114). -/
theorem exists_decodeCommand_ok_iff (v : Word) :
    (∃ i, decodeCommand v = .ok i) ↔ opcodeOf v < 12 ∧ ReservedClear v := by
  unfold decodeCommand ReservedClear opcodeOf
  split
  case h_13 =>
    have hhigh : ¬ (bitField v 28 4).toNat < 12 := by grind
    simp [hhigh]
  all_goals simp [*, exists_acceptIf_ok_iff, reservedFields]

/-- The decoder accepts a word exactly when a row of the opcode map matches it (R112, R114). -/
theorem exists_decode_ok_iff_row (v : Word) :
    (∃ i, decode (.cmd32 v) = .ok i) ↔ ∃ r ∈ opcodeTable, v &&& r.mask = r.matchBits :=
  (exists_decodeCommand_ok_iff v).trans (exists_row_matches_iff v).symm

/-- A write to CMD of a word outside the opcode map is refused (R294). -/
theorem refusesWord_of_no_row (s : State) {v : Word} (h : ¬ ∃ r ∈ opcodeTable, v &&& r.mask = r.matchBits) :
    RefusesWord s v :=
  (regWrite_cmd s v).trans (executeWord_illegal s (not_exists.mp (mt (exists_decode_ok_iff_row v).mp h)))

/-- Settles O2: the decoder accepts exactly the words of the opcode map, whose opcodes are 0x0 to 0xB, one a row. -/
theorem illegalWordsAreThoseOutsideTheOpcodeMap : Obligations.IllegalWordsAreThoseOutsideTheOpcodeMap := by
  unfold Obligations.IllegalWordsAreThoseOutsideTheOpcodeMap
  refine fun s v => ⟨fun hout => refusesWord_of_no_row s ?_, fun hrow => ⟨?_, ?_⟩, rfl⟩
  · rcases hout with hop | hnone
    · exact fun hrow => Nat.not_lt.mpr hop ((exists_row_matches_iff v).mp hrow).1
    · exact fun ⟨r, hr, hm⟩ => hnone r hr hm
  · obtain ⟨r, hr, hm⟩ := hrow
    exact ⟨r, hr, hm, fun r' hr' hm' => row_unique hr hr' hm hm'⟩
  · obtain ⟨i, hi⟩ := (exists_decode_ok_iff_row v).mpr hrow
    exact ⟨i, decode_isHostCommand hi, hi, (regWrite_cmd s v).trans (executeWord_ok s hi)⟩

end Sys2Proof.Machine
end

section
/-!
PROOFS. The pseudo-instructions (30_encoding.md R125): the host accesses each line stands for.
-/

namespace Sys2Proof.Machine

/-- Loading bytes from the `k`-th register of a buffer on is one write a byte, at the byte's own register (R125). -/
theorem loadActions_eq_map (base k : Nat) (bs : List Byte) :
    loadActions (base + 4 * k) bs =
      (bs.zipIdx k).map fun p => .regWrite (BitVec.ofNat 8 (base + 4 * p.2)) (p.1.setWidth 32) := by
  induction bs generalizing k with
  | nil => rfl
  | cons b bs ih => simp only [loadActions, List.zipIdx_cons, List.map_cons, ← ih (k + 1), Nat.mul_succ, Nat.add_assoc]

/-- A host command's line writes its own code word (R125). -/
theorem issue_of_encode {i : Instr} {w : Word} (h : encode i = .cmd32 w) : issue i = .regWrite 0x00 w := by
  simp only [issue, commandWord, h, CodeWord.bits, cmdOffset]

/-- Settles O55: a command line is one write of CMD, a load is the writes of `loadActions_eq_map`, and the rest unfolds. -/
theorem hostLinesExpand : Obligations.HostLinesExpand := by
  unfold Obligations.HostLinesExpand
  exact ⟨fun i w h => congrArg ([·]) (issue_of_encode h), rfl, fun bs _ => loadActions_eq_map 0x40 0 bs,
    fun bs _ => loadActions_eq_map 0x80 0 bs, fun a bs _ => rfl⟩

end Sys2Proof.Machine
end

section
/-!
PROOFS. The raw bus commands START, STOP, WRB and RDB (40_byte_transfer.md R150 to R163): their words, the words of their
opcodes that are refused, their two errors, and their next states by endpoint.
-/

namespace Sys2Proof.Machine

/-! ### Words -/

/-- A write to CMD of a word that decodes runs its command (R115). -/
theorem regWrite_of_decode (s : State) {v : Word} {i : Instr} (h : decode (.cmd32 v) = .ok i) :
    regWrite s 0x00 v = exec i s :=
  (regWrite_cmd s v).trans (executeWord_ok s h)

/-- A field below the opcode is the field of the operands. -/
theorem bitField_opWord_of_le (op : BitVec 4) (operands : Word) {lo width : Nat} (h : lo + width ≤ 28) :
    bitField (opWord op operands) lo width = bitField operands lo width := by
  refine BitVec.eq_of_getElem_eq fun i hi => ?_
  have hlow : lo + i < 28 := by omega
  simp [bitField, opWord, hlow]

/-- The opcode field of a word whose operands keep clear of it. -/
theorem bitField_opWord_opcode (op : BitVec 4) (operands : Word) (h : bitField operands 28 4 = 0) :
    bitField (opWord op operands) 28 4 = op := by
  refine BitVec.eq_of_getElem_eq fun i hi => ?_
  have hin : 28 + i < 32 := by omega
  have hclear : operands[28 + i] = false := by simpa [bitField, hi, hin] using congrArg (·.getLsbD i) h
  simp [bitField, opWord, hin, hclear, BitVec.getLsbD_eq_getElem hi]

/-- The bits of a byte in a word above its own are 0. -/
theorem bitField_byte_above (b : Byte) {lo width : Nat} (h : 8 ≤ lo) :
    bitField (b.setWidth 32 : Word) lo width = 0 := by
  refine BitVec.eq_of_getElem_eq fun i hi => ?_
  have hout : b.getLsbD (lo + i) = false := BitVec.getLsbD_of_ge b _ (by omega)
  simp [bitField, hout]

theorem bitField_byte (b : Byte) : bitField (b.setWidth 32 : Word) 0 8 = b := by
  refine BitVec.eq_of_getElem_eq fun i hi => ?_
  have hin : i < 32 := by omega
  simp [bitField, hin, BitVec.getLsbD_eq_getElem hi]

/-- WRB's word decodes to it, its byte in bits 7:0 (R111, R112). -/
theorem decode_commandWord_wrb (b : Byte) : decode (.cmd32 (commandWord (.wrb b))) = .ok (.wrb b) := by
  have hop : bitField (commandWord (.wrb b)) 28 4 = 0x3 :=
    bitField_opWord_opcode 0x3 _ (bitField_byte_above b (by decide))
  have hreserved : bitField (commandWord (.wrb b)) 8 20 = 0 :=
    (bitField_opWord_of_le 0x3 _ (by decide)).trans (bitField_byte_above b (by decide))
  have hval : bitField (commandWord (.wrb b)) 0 8 = b :=
    (bitField_opWord_of_le 0x3 _ (by decide)).trans (bitField_byte b)
  simp [decode, decodeCommand, acceptIf, hop, hreserved, hval]

/-- A word with a bit set in a field outside its opcode's operands is refused (R114, R294). -/
theorem refusesWord_of_reservedField (s : State) {v : Word} {op : BitVec 4} {f : Nat × Nat} (hop : bitField v 28 4 = op)
    (hf : f ∈ reservedFields op.toNat) (h : bitField v f.1 f.2 ≠ 0) : RefusesWord s v := by
  subst hop
  refine refusesWord_of_no_row s fun hrow => ?_
  obtain ⟨-, hclear⟩ := (exists_row_matches_iff v).mp hrow
  exact h (hclear f hf)

/-! ### Errors -/

/-- Every bus command needs CONFIG.BUS_EN (R295). -/
theorem needsBus_of_usesBus {i : Instr} (hi : i.usesBus = true) (s : State) : NeedsBus i s := by
  intro hb
  rw [← State.raise_eq_errorResponse]
  cases i with
  | start | stop | wrb | rdb | fwr | frd | begin | measure =>
    simp only [exec]
    exact requireBus_disabled _ hb
  | nop | decode | conv | clrerr | emuAddrW | emuAddrR | emuCal | emuTrig => cases hi

/-- WRB and RDB need an open transaction (R296). -/
theorem needsOpen_of_usesOpenTransaction {i : Instr} (hi : i.usesOpenTransaction = true) (s : State) : NeedsOpen i s := by
  intro hb ho
  rw [← State.raise_eq_errorResponse]
  cases i with
  | wrb | rdb =>
    simp only [exec]
    exact (requireBus_enabled _ hb).trans (requireOpen_closed _ ho)
  | nop | start | stop | fwr | frd | begin | measure | decode | conv | clrerr | emuAddrW | emuAddrR | emuCal
  | emuTrig => cases hi

/-! ### START and STOP -/

/-- A symbol with no reply reaches the emulator where it is the endpoint (R59). -/
theorem State.emuReact_eq (s : State) (react : Emulator → Emulator) : s.emuReact react =
    { s with emu := if s.params.endpoint = .emulator then react s.emu else s.emu } := by
  cases h : s.params.endpoint <;> simp [State.emuReact, h]

theorem exec_start_enabled {s : State} (hb : s.busEn = true) : exec .start s = .next
    { s with
      log := s.log ++ [.start]
      emu := if s.params.endpoint = .emulator then betweenBytes s.emu true else s.emu
      busOpen := true
      cmd := 0x10000000
      result := some .ok } := by
  refine (execStart_enabled hb).trans (congrArg _ ?_)
  rw [State.busStart, State.emuReact_eq]
  rfl

theorem exec_stop_enabled {s : State} (hb : s.busEn = true) : exec .stop s = .next
    { s with
      log := s.log ++ [.stop]
      emu := if s.params.endpoint = .emulator then betweenBytes s.emu false else s.emu
      busOpen := false
      cmd := 0x20000000
      result := some .ok } := by
  refine (execStop_enabled hb).trans (congrArg _ ?_)
  rw [State.busStop, State.emuReact_eq]
  rfl

/-- Settles O17: the word decodes, other words of the opcode set a reserved bit, and the bus start is taken by endpoint. -/
theorem startOpensATransaction : Obligations.StartOpensATransaction := by
  unfold Obligations.StartOpensATransaction
  exact fun s => ⟨regWrite_of_decode s rfl,
    fun v hop h => refusesWord_of_reservedField s (f := (0, 28)) hop (by decide) h,
    needsBus_of_usesBus rfl s, exec_start_enabled⟩

/-- Settles O18: as for START, and the next state asks nothing of BUS_OPEN. -/
theorem stopClosesATransaction : Obligations.StopClosesATransaction := by
  unfold Obligations.StopClosesATransaction
  exact fun s => ⟨regWrite_of_decode s rfl,
    fun v hop h => refusesWord_of_reservedField s (f := (0, 28)) hop (by decide) h,
    needsBus_of_usesBus rfl s, exec_stop_enabled⟩

/-! ### WRB -/

/-- WRB past its checks is its one write exchange, reported (R157, R162). -/
theorem exec_wrb_passed {s t : State} {b : Byte} {r : AckOutcome} (hb : s.busEn = true) (ho : s.busOpen = true)
    (hw : s.busWrite b = (r, t)) :
    exec (.wrb b) s = .next { t with outcome := r, cmd := 0x30000000 ||| b.setWidth 32, result := some .ok } := by
  refine (execWrb_passed b hb ho).trans ?_
  rw [hw]
  rfl

/-- An emulator that awaits its address takes 0x70 as its write address (R243). -/
theorem Emulator.onWrite_addrW {e : Emulator} (h : e.awaitAddr = true) :
    (e.onWrite addrW).2.st = .receivingCommand := by
  simp [Emulator.onWrite, h, Emulator.onAddress, classifyAddress]

/-- Settles O19: the endpoint's reply to the one write exchange is the outcome. -/
theorem writeByteReportsTheReply : Obligations.WriteByteReportsTheReply := by
  unfold Obligations.WriteByteReportsTheReply
  exact fun s b => ⟨regWrite_of_decode s (decode_commandWord_wrb b),
    fun v hop h => refusesWord_of_reservedField s (f := (8, 20)) hop (by decide) h,
    needsBus_of_usesBus rfl s, needsOpen_of_usesOpenTransaction rfl s,
    fun hb ho he => exec_wrb_passed hb ho (State.busWrite_emulator b he), Emulator.onWrite_addrW,
    fun hb ho he r o hd => exec_wrb_passed hb ho (State.busWrite_external b he hd)⟩

/-! ### RDB -/

/-- RDB past its checks is its one read exchange, reported (R157, R163). -/
theorem exec_rdb_passed {s t : State} {pol : AckPol} {r : ReadReply} (hb : s.busEn = true) (ho : s.busOpen = true)
    (hr : s.busRead pol = (r, t)) :
    exec (.rdb pol) s = .next
      { t with rxb := rxbAfter t.rxb r, outcome := readOutcome pol r, cmd := commandWord (.rdb pol), result := some .ok } := by
  refine (execRdb_passed pol hb ho).trans ?_
  rw [hr]
  rfl

/-- An Idle emulator answers a read request with the exhausted byte (R248). -/
theorem Emulator.onRead_idle {e : Emulator} (pol : AckPol) (hs : e.st = .idle) :
    (e.onRead pol).1 = .delivered exhaustedByte := by
  simp [Emulator.onRead, hs]

/-- An emulator in SendingData answers with the byte of the canned frame its counter points at (R247). -/
theorem Emulator.onRead_sendingData {e : Emulator} (pol : AckPol) {i : Fin 6} (hs : e.st = .sendingData)
    (hi : e.sendCnt = i.castSucc) : (e.onRead pol).1 = .delivered cannedFrame[i] := by
  simp [Emulator.onRead, hs, hi]

/-- Settles O20: the one read exchange is reported by `rxbAfter` and `readOutcome`, by the reply and the acknowledgement. -/
theorem readByteReportsTheMastersAcknowledgement : Obligations.ReadByteReportsTheMastersAcknowledgement := by
  unfold Obligations.ReadByteReportsTheMastersAcknowledgement
  refine fun s pol => ⟨?_, fun v hop h => ?_, needsBus_of_usesBus rfl s, needsOpen_of_usesOpenTransaction rfl s,
    fun hb ho he => ?_, fun hb ho he r o hd => ?_⟩
  · cases pol <;> exact regWrite_of_decode s rfl
  · rcases h with h | h
    · exact refusesWord_of_reservedField s (f := (9, 19)) hop (by decide) h
    · exact refusesWord_of_reservedField s (f := (0, 8)) hop (by decide) h
  · obtain ⟨b, e, hr⟩ := s.emu.onRead_delivers pol
    have hbyte : ∀ {c : Byte}, (s.emu.onRead pol).1 = .delivered c → b = c := by simp [hr]
    refine ⟨b, e, hr, fun hs => hbyte (Emulator.onRead_idle pol hs),
      fun hs hc => hbyte (Emulator.onRead_sendingData pol (i := 0) hs hc),
      fun hs hc => hbyte (Emulator.onRead_sendingData pol (i := 5) hs hc), ?_⟩
    refine (exec_rdb_passed hb ho (State.busRead_emulator pol he hr)).trans ?_
    cases pol <;> rfl
  · refine (exec_rdb_passed hb ho (State.busRead_external pol he hd)).trans ?_
    cases r <;> cases pol <;> rfl

end Sys2Proof.Machine
end

section
/-!
PROOFS. The framed commands FWR and FRD (41_transaction_framer.md R180 to R186): what a framing procedure logs, and the
next state of each command by the endpoint's replies and with the emulator.
-/

namespace Sys2Proof.Machine

/-! ### What a framing procedure logs -/

/-- Between `s` and `t` only events of the kind `P` were logged. -/
def LogsOnly (P : Event → Prop) (s t : State) : Prop := ∃ mid, t.log = s.log ++ mid ∧ ∀ e ∈ mid, P e

/-- A written byte, whatever the reply. -/
def Event.IsWrite (e : Event) : Prop := ∃ b r, e = .write b r

/-- A written byte or a read request, whatever the reply. -/
def Event.IsByte (e : Event) : Prop := e.IsWrite ∨ ∃ p r, e = .read p r

theorem LogsOnly.refl (P : Event → Prop) (s : State) : LogsOnly P s s := ⟨[], by simp, by simp⟩

theorem LogsOnly.trans {P : Event → Prop} {s t u : State} (h : LogsOnly P s t) (k : LogsOnly P t u) :
    LogsOnly P s u := by
  obtain ⟨mid, hlog, hmid⟩ := h
  obtain ⟨more, klog, kmore⟩ := k
  refine ⟨mid ++ more, by rw [klog, hlog, List.append_assoc], fun e he => ?_⟩
  exact (List.mem_append.mp he).elim (hmid e) (kmore e)

theorem LogsOnly.mono {P Q : Event → Prop} {s t : State} (h : LogsOnly P s t) (hPQ : ∀ e, P e → Q e) :
    LogsOnly Q s t := by
  obtain ⟨mid, hlog, hmid⟩ := h
  exact ⟨mid, hlog, fun e he => hPQ e (hmid e he)⟩

/-- What is logged between a Start and a Stop stands between these two in the log (R182). -/
theorem LogsOnly.framed {P : Event → Prop} {s t : State} (h : LogsOnly P s.busStart t) :
    ∃ mid, t.busStop.log = s.log ++ [.start] ++ mid ++ [.stop] ∧ ∀ e ∈ mid, P e := by
  obtain ⟨mid, hlog, hmid⟩ := h
  exact ⟨mid, by rw [t.busStop_trace.log, hlog, s.busStart_trace.log], hmid⟩

theorem State.busWrite_logsOnly (s : State) (b : Byte) : LogsOnly Event.IsWrite s (s.busWrite b).2 :=
  ⟨_, (s.busWrite_trace b).log, by simp [Event.IsWrite]⟩

theorem State.busRead_logsOnly (s : State) (pol : AckPol) : LogsOnly Event.IsByte s (s.busRead pol).2 :=
  ⟨_, (s.busRead_trace pol).log, by simp [Event.IsByte]⟩

theorem writePhase_logsOnly (s : State) (sent : Nat) (bs : List Byte) :
    LogsOnly Event.IsWrite s (writePhase s sent bs).state := by
  induction bs generalizing s sent with
  | nil => exact LogsOnly.refl _ s
  | cons b bs ih =>
    have hb := s.busWrite_logsOnly b
    unfold writePhase
    split
    case h_1 s' h =>
      rw [h] at hb
      exact hb.trans (ih s' (sent + 1))
    case h_2 r s' _ h =>
      rw [h] at hb
      exact hb

theorem readPhase_logsOnly (s : State) (out : List Byte) (n : Nat) :
    LogsOnly Event.IsByte s (readPhase s out n).state := by
  induction n generalizing s out with
  | zero => exact LogsOnly.refl _ s
  | succ n ih =>
    have hb := s.busRead_logsOnly (polFor n)
    unfold readPhase
    split
    case h_1 b s' h =>
      rw [h] at hb
      exact hb.trans (ih s' (out ++ [b]))
    case h_2 s' h =>
      rw [h] at hb
      exact hb

theorem frameWrite_log (s : State) (addr7 : BitVec 7) (bs : List Byte) :
    ∃ mid, (frameWrite s addr7 bs).state.log = s.log ++ [.start] ++ mid ++ [.stop] ∧ ∀ e ∈ mid, e.IsWrite := by
  have hb := s.busStart.busWrite_logsOnly (addressByte addr7 .write)
  unfold frameWrite
  split
  case h_1 s' h =>
    rw [h] at hb
    exact (hb.trans (writePhase_logsOnly s' 0 bs)).framed
  case h_2 r s' _ h =>
    rw [h] at hb
    exact hb.framed

theorem frameRead_log (s : State) (addr7 : BitVec 7) (n : Nat) :
    ∃ mid, (frameRead s addr7 n).state.log = s.log ++ [.start] ++ mid ++ [.stop] ∧ ∀ e ∈ mid, e.IsByte := by
  have hb : LogsOnly Event.IsByte s.busStart _ :=
    (s.busStart.busWrite_logsOnly (addressByte addr7 .read)).mono fun _ => Or.inl
  unfold frameRead
  split
  case h_1 s' h =>
    rw [h] at hb
    exact (hb.trans (readPhase_logsOnly s' [] n)).framed
  case h_2 r s' _ h =>
    rw [h] at hb
    exact hb.framed

/-! ### Words -/

theorem commandWord_fwr (a : BitVec 7) (n : BitVec 4) :
    commandWord (.fwr a n) = 0x50000000 ||| (a.setWidth 32 <<< 16) ||| n.setWidth 32 :=
  (BitVec.or_assoc ..).symm

theorem commandWord_frd (a : BitVec 7) (n : BitVec 4) :
    commandWord (.frd a n) = 0x60000000 ||| (a.setWidth 32 <<< 16) ||| n.setWidth 32 :=
  (BitVec.or_assoc ..).symm

/-- The fields of a framed command's word: its opcode, address and length, and zeros elsewhere (R110, R111). -/
def FramedFields (v : Word) (op : BitVec 4) (a : BitVec 7) (n : BitVec 4) : Prop :=
  bitField v 28 4 = op ∧ bitField v 23 5 = 0 ∧ bitField v 16 7 = a ∧ bitField v 4 12 = 0 ∧ bitField v 0 4 = n

theorem framedOperands_fields (a : BitVec 7) (n : BitVec 4) : FramedFields (framedOperands a n) 0 a n := by
  refine ⟨?_, ?_, ?_, ?_, ?_⟩ <;> refine BitVec.eq_of_getElem_eq fun i hi => ?_
  all_goals interval_cases i <;> simp [bitField, framedOperands]

theorem opWord_framedOperands_fields (op : BitVec 4) (a : BitVec 7) (n : BitVec 4) :
    FramedFields (opWord op (framedOperands a n)) op a n := by
  obtain ⟨hop, hhigh, haddr, hmid, hlen⟩ := framedOperands_fields a n
  exact ⟨bitField_opWord_opcode op _ hop, (bitField_opWord_of_le op _ (by decide)).trans hhigh,
    (bitField_opWord_of_le op _ (by decide)).trans haddr, (bitField_opWord_of_le op _ (by decide)).trans hmid,
    (bitField_opWord_of_le op _ (by decide)).trans hlen⟩

/-- FWR's word decodes to it (R111, R112). -/
theorem decode_commandWord_fwr (a : BitVec 7) (n : BitVec 4) :
    decode (.cmd32 (commandWord (.fwr a n))) = .ok (.fwr a n) := by
  obtain ⟨hop, hhigh, haddr, hmid, hlen⟩ : FramedFields (commandWord (.fwr a n)) 0x5 a n :=
    opWord_framedOperands_fields 0x5 a n
  simp [decode, decodeCommand, acceptIf, hop, hhigh, haddr, hmid, hlen]

/-- FRD's word decodes to it (R111, R112). -/
theorem decode_commandWord_frd (a : BitVec 7) (n : BitVec 4) :
    decode (.cmd32 (commandWord (.frd a n))) = .ok (.frd a n) := by
  obtain ⟨hop, hhigh, haddr, hmid, hlen⟩ : FramedFields (commandWord (.frd a n)) 0x6 a n :=
    opWord_framedOperands_fields 0x6 a n
  simp [decode, decodeCommand, acceptIf, hop, hhigh, haddr, hmid, hlen]

/-- A word of FWR's or FRD's opcode with a bit set outside their operands is refused (R114, R294). -/
theorem refusesWord_framed (s : State) {v : Word} {op : BitVec 4} (hop : bitField v 28 4 = op)
    (hf : reservedFields op.toNat = [(23, 5), (4, 12)]) (h : bitField v 23 5 ≠ 0 ∨ bitField v 4 12 ≠ 0) :
    RefusesWord s v := by
  rcases h with h | h
  · exact refusesWord_of_reservedField s (f := (23, 5)) hop (by simp [hf]) h
  · exact refusesWord_of_reservedField s (f := (4, 12)) hop (by simp [hf]) h

/-! ### The two commands past their check -/

/-- FWR with the bus enabled reports its framed write (R184). -/
theorem exec_fwr_enabled {s : State} {a : BitVec 7} {n : BitVec 4} {w : FramedWrite} (hb : s.busEn = true)
    (hw : frameWrite s a (dataBytes s n) = w) : exec (.fwr a n) s = .next
      { w.state with
        outcome := w.outcome
        count := countField w.count
        busOpen := false
        cmd := 0x50000000 ||| (a.setWidth 32 <<< 16) ||| n.setWidth 32
        result := some .ok } := by
  rw [← commandWord_fwr]
  exact execFwr_enabled a n hb hw

/-- FRD with the bus enabled reports its framed read and stores the bytes received (R185). -/
theorem exec_frd_enabled {s : State} {a : BitVec 7} {n : BitVec 4} {r : FramedRead} (hb : s.busEn = true)
    (hr : frameRead s a n.toNat = r) : exec (.frd a n) s = .next
      { r.state with
        data := storeBytes r.state.data r.bytes
        outcome := r.outcome
        count := countField r.bytes.length
        busOpen := false
        cmd := 0x60000000 ||| (a.setWidth 32 <<< 16) ||| n.setWidth 32
        result := some .ok } := by
  rw [← commandWord_frd]
  exact execFrd_enabled a n hb hr

/-- Settles O22: the phases log bytes alone, the procedures frame them, and the commands clear BUS_OPEN. -/
theorem framingEmitsOneStartAndOneStop : Obligations.FramingEmitsOneStartAndOneStop := by
  unfold Obligations.FramingEmitsOneStartAndOneStop
  refine ⟨frameWrite_log, frameRead_log, fun s t a n hb h => ?_⟩
  rcases h with h | h
  · cases (exec_fwr_enabled hb rfl).symm.trans h
    rfl
  · cases (exec_frd_enabled hb rfl).symm.trans h
    rfl

/-! ### The address byte of a framed transaction -/

/-- The emulator takes a write address exactly when it is its own (R117, R122). -/
theorem classifyAddress_write (a : BitVec 7) :
    classifyAddress (addressByte a .write) = if a = 0x38 then .writeAddress else .foreign := by
  revert a
  decide

/-- The emulator takes a read address exactly when it is its own (R117, R122). -/
theorem classifyAddress_read (a : BitVec 7) :
    classifyAddress (addressByte a .read) = if a = 0x38 then .readAddress else .foreign := by
  revert a
  decide

/-- The emulator after the Start and the address byte of a framed write (R240, R243, R244). -/
theorem Emulator.addressed_write (e : Emulator) (a : BitVec 7) : (e.onStart.onWrite (addressByte a .write)).2 =
    { betweenBytes e false with st := if a = 0x38 then .receivingCommand else .idle } := by
  simp only [Emulator.onWrite, Emulator.onStart, Emulator.resetTransaction, if_true, Emulator.onAddress,
    classifyAddress_write]
  split_ifs <;> rfl

/-- The emulator after the Start and the address byte of a framed read (R240, R243, R244). -/
theorem Emulator.addressed_read (e : Emulator) (a : BitVec 7) : (e.onStart.onWrite (addressByte a .read)).2 =
    { betweenBytes e false with st := if a = 0x38 then .sendingData else .idle } := by
  simp only [Emulator.onWrite, Emulator.onStart, Emulator.resetTransaction, if_true, Emulator.onAddress,
    classifyAddress_read]
  split_ifs <;> rfl

/-! ### FWR -/

@[simp] theorem countField_toNat (n : BitVec 4) : countField n.toNat = n := BitVec.ofNat_toNat ..

@[simp] theorem dataBytes_length (s : State) (n : BitVec 4) : (dataBytes s n).length = n.toNat := by
  simp only [dataBytes, List.length_take, Vector.length_toList]
  omega

/-- The sensor flags as a completed command of the bytes `bs` leaves them (R251 to R253). -/
def Emulator.withCommand (e : Emulator) (bs : List Byte) : Emulator :=
  { e with
    calibrated := e.calibrated || bs == [0xBE, 0x08, 0x00]
    measTriggered := e.measTriggered || (e.calibrated && bs == [0xAC, 0x33, 0x00]) }

/-- Evaluate sets the flags by the command in the buffer; a trigger counts only once calibrated (R250 to R253). -/
theorem Emulator.evaluate_eq (e : Emulator) : e.evaluate = e.withCommand e.cmdBuf.toList := by
  unfold Emulator.evaluate classifyFrame Emulator.withCommand calCmd trigCmd
  split_ifs with hcal htrig
  · simp [Emulator.calibrate, hcal]
  · obtain ⟨st, await, cmdCnt, sendCnt, cal, meas, buf⟩ := e
    cases cal <;> simp_all [Emulator.trigger]
  · rw [beq_eq_false_iff_ne.mpr hcal, beq_eq_false_iff_ne.mpr htrig]
    simp

/-- The third byte of a command completes it and ends the reception (R245, R250). -/
theorem Emulator.onWrites_command (e : Emulator) (b₀ b₁ b₂ : Byte) :
    Emulator.onWrites { betweenBytes e false with st := .receivingCommand } [b₀, b₁, b₂] =
      { betweenBytes (e.withCommand [b₀, b₁, b₂]) false with cmdCnt := 3, cmdBuf := #v[b₀, b₁, b₂] } := by
  simp [Emulator.withCommand, betweenBytes, Emulator.onWrite, Emulator.onCommandByte, Emulator.append,
    Emulator.evaluate_eq]

/-- Of a transaction received from its begin on, only the first three bytes count, and only if there are three (R245,
R246). -/
theorem Emulator.onWrites_receiving (e : Emulator) (bs : List Byte) :
    (Emulator.onWrites { betweenBytes e false with st := .receivingCommand } bs).onStop =
      betweenBytes (e.withCommand (bs.take 3)) false := by
  match bs with
  | [] | [_] | [_, _] =>
    simp [Emulator.withCommand, betweenBytes, Emulator.onWrite, Emulator.onCommandByte, Emulator.append,
      Emulator.onStop, Emulator.resetTransaction]
  | b₀ :: b₁ :: b₂ :: rest =>
    rw [show b₀ :: b₁ :: b₂ :: rest = [b₀, b₁, b₂] ++ rest from rfl, Emulator.onWrites_append,
      Emulator.onWrites_command, Emulator.onWrites_idle rest rfl rfl]
    rfl

/-- A whole framed write of the emulator: only one to its own address is a command (R243, R244). -/
theorem Emulator.framedWrite_eq (e : Emulator) (a : BitVec 7) (bs : List Byte) :
    (e.onStart.onWrites (addressByte a .write :: bs)).onStop =
      { betweenBytes e false with
        calibrated := e.calibrated || (a == 0x38 && bs.take 3 == [0xBE, 0x08, 0x00])
        measTriggered := e.measTriggered || (e.calibrated && a == 0x38 && bs.take 3 == [0xAC, 0x33, 0x00]) } := by
  rw [Emulator.onWrites_cons, Emulator.addressed_write]
  by_cases ha : a = 0x38
  · subst ha
    rw [if_pos rfl, Emulator.onWrites_receiving]
    simp [Emulator.withCommand, betweenBytes]
  · rw [if_neg ha, Emulator.onWrites_idle bs rfl rfl, beq_eq_false_iff_ne.mpr ha]
    simp [betweenBytes, Emulator.onStop, Emulator.resetTransaction]

/-- Settles O23: FWR reports its framed write, whose next state is the one of the endpoint's replies or the emulator's. -/
theorem framedWriteStopsAtTheFirstFailure : Obligations.FramedWriteStopsAtTheFirstFailure := by
  unfold Obligations.FramedWriteStopsAtTheFirstFailure
  refine fun s a n => ⟨?_, fun v hop h => refusesWord_framed s hop rfl h, needsBus_of_usesBus rfl s,
    fun hb he => ⟨fun r w hr hw => ?_, fun k r w hk hr hw => ?_, fun w hw => ?_⟩, fun hb he => ?_⟩
  · rw [← commandWord_fwr]
    exact regWrite_of_decode s (decode_commandWord_fwr a n)
  · exact exec_fwr_enabled hb (frameWrite_external_address a _ he hr hw)
  · have hlen : k < (dataBytes s n).length := by rwa [dataBytes_length]
    have htake : (dataBytes s n).take k = s.data.toList.take k := by
      rw [dataBytes, List.take_take, Nat.min_eq_left hk.le]
    have hget : (dataBytes s n).getD k 0 = s.data.toList.getD k 0 := by simp [dataBytes, hk]
    refine (exec_fwr_enabled hb (frameWrite_external_failed a _ he hlen hr hw)).trans ?_
    rw [htake, hget]
    rfl
  · rw [← dataBytes_length s n] at hw
    refine (exec_fwr_enabled hb (frameWrite_external_acked a _ he hw)).trans ?_
    rw [dataBytes_length, countField_toNat]
    rfl
  · refine (exec_fwr_enabled hb (frameWrite_emulator a _ he)).trans ?_
    rw [dataBytes_length, countField_toNat, Emulator.framedWrite_eq]
    rfl

/-! ### FRD -/

/-- The bytes the emulator still has to deliver before it is exhausted (R247, R248). -/
def Emulator.pending (e : Emulator) : List Byte :=
  match e.st with
  | .sendingData => cannedFrame.toList.drop e.sendCnt.val
  | .idle | .receivingCommand => []

/-- A read request takes the next pending byte, or the exhausted byte where none is left (R247, R248). -/
theorem Emulator.onRead_pending (e : Emulator) (pol : AckPol) :
    (e.onRead pol).1 = .delivered (e.pending.headD exhaustedByte) ∧ (e.onRead pol).2.pending = e.pending.tail := by
  obtain ⟨st, await, cmdCnt, sendCnt, cal, meas, buf⟩ := e
  cases st with
  | idle | receivingCommand => exact ⟨rfl, rfl⟩
  | sendingData => fin_cases sendCnt <;> exact ⟨rfl, rfl⟩

/-- The bytes the emulator serves: the pending ones, then exhausted bytes (R247, R248). -/
theorem Emulator.serve_getElem? (e : Emulator) {n i : Nat} (hi : i < n) :
    (e.serve n).1[i]? = some (e.pending.getD i exhaustedByte) := by
  induction n generalizing e i with
  | zero => omega
  | succ n ih =>
    obtain ⟨b, e', hr⟩ := e.onRead_delivers .ack
    obtain ⟨hbyte, hpending⟩ := e.onRead_pending .ack
    simp only [hr, ReadReply.delivered.injEq] at hbyte hpending
    cases i with
    | zero => simp [Emulator.serve, hr, hbyte, List.head?_eq_getElem?]
    | succ i => simp [Emulator.serve, hr, ih e' (Nat.lt_of_succ_lt_succ hi), hpending]

/-- Read requests leave the sensor flags, so a Stop after them is a Stop before them (R241, R247, R248). -/
theorem Emulator.serve_onStop (e : Emulator) (n : Nat) : (e.serve n).2.onStop = e.onStop := by
  induction n generalizing e with
  | zero => rfl
  | succ n ih =>
    obtain ⟨b, e', hr⟩ := e.onRead_delivers .ack
    have hframe := e.onRead_frame .ack
    simp only [hr] at hframe
    rw [Emulator.serve, hr]
    exact (ih e').trans (Emulator.onStop_congr (by rw [hframe]) (by rw [hframe]))

/-- Storing bytes from index `k` on leaves the bytes before `k` and those past the last stored one (R185, R205). -/
theorem getElem_storeFrom {m : Nat} (v : Vector Byte m) (k : Nat) (bs : List Byte) (j : Nat) (hj : j < m) :
    (storeFrom v k bs)[j] = if k ≤ j then bs.getD (j - k) v[j] else v[j] := by
  induction bs generalizing v k with
  | nil => simp [storeFrom]
  | cons b bs ih =>
    rw [storeFrom, ih, Vector.getElem_setIfInBounds]
    rcases Nat.lt_trichotomy j k with hlt | rfl | hgt
    · rw [if_neg (by omega), if_neg (by omega), if_neg (by omega)]
    · simp
    · rw [if_pos (by omega), if_neg (by omega), if_pos (by omega), show j - k = j - (k + 1) + 1 by omega,
        List.getD_cons_succ]

/-- Storing received bytes writes them from index 0 on and leaves the rest of the buffer (R185, R205). -/
theorem getElem_storeBytes {m : Nat} (v : Vector Byte m) (bs : List Byte) (j : Fin m) :
    (storeBytes v bs)[j] = bs.getD j.val v[j] :=
  getElem_storeFrom v 0 bs j.val j.isLt

/-- Byte `i` of a framed read of `n` bytes is NACKed exactly when no byte is wanted after it (R181). -/
theorem polFor_eq_ackOfByte {n i : Nat} (hi : i < n) : polFor (n - i - 1) = ackOfByte n i := by
  unfold polFor ackOfByte
  congr 1
  simp only [eq_iff_iff]
  omega

/-- The events of a data phase are numbered by the bytes received before it (R181). -/
theorem phaseEvents_eq_map (n k : Nat) (bs : List Byte) (h : k + bs.length ≤ n) :
    phaseEvents bs (n - k) = (bs.zipIdx k).map fun p => .read (ackOfByte n p.2) (.delivered p.1) := by
  induction bs generalizing k with
  | nil => rfl
  | cons b bs ih =>
    rw [List.length_cons] at h
    rw [phaseEvents, polFor_eq_ackOfByte (by omega), Nat.sub_sub, ih (k + 1) (by omega)]
    rfl

theorem phaseEvents_eq_readEvents {n : Nat} {bs : List Byte} (h : bs.length ≤ n) :
    phaseEvents bs n = readEvents n bs :=
  phaseEvents_eq_map n 0 bs (by omega)

/-- Settles O24: FRD reports its framed read and stores its bytes; with the emulator these are the pending ones after the
address byte. -/
theorem framedReadKeepsTheBytesReceived : Obligations.FramedReadKeepsTheBytesReceived := by
  unfold Obligations.FramedReadKeepsTheBytesReceived
  refine fun s a n => ⟨?_, fun v hop h => refusesWord_framed s hop rfl h, needsBus_of_usesBus rfl s,
    fun hb he => ⟨fun r w hr hw => ?_, fun w bs q hw hlen hq => ?_, fun w bs q hw hlen hq => ?_⟩, fun hb he => ?_⟩
  · rw [← commandWord_frd]
    exact regWrite_of_decode s (decode_commandWord_frd a n)
  · exact exec_frd_enabled hb (frameRead_external_address a _ he hr hw)
  · refine ⟨_, exec_frd_enabled hb (frameRead_external_terr a bs he hlen hw hq), ?_, getElem_storeBytes s.data bs⟩
    rw [phaseEvents_eq_readEvents hlen.le, polFor_eq_ackOfByte hlen]
    rfl
  · have hread := frameRead_external_delivered a bs he hw hq
    rw [hlen] at hread
    refine ⟨_, exec_frd_enabled hb hread, ?_, getElem_storeBytes s.data bs⟩
    rw [phaseEvents_eq_readEvents hlen.le, hlen, countField_toNat]
    rfl
  · refine ⟨_, _, exec_frd_enabled hb (frameRead_emulator a n.toNat he), Emulator.serve_length _ _, fun i hi => ?_, ?_,
      getElem_storeBytes s.data _⟩
    · rw [Emulator.serve_getElem? _ hi, Emulator.addressed_read]
      by_cases ha : a = 0x38
      · rw [if_pos ha, if_pos ha]
        rfl
      · rw [if_neg ha, if_neg ha]
        rfl
    · rw [phaseEvents_eq_readEvents (Emulator.serve_length _ _).le, Emulator.serve_length,
        countField_toNat, Emulator.serve_onStop, Emulator.addressed_read]
      rfl

end Sys2Proof.Machine
end

section
/-!
PROOFS. The AHT20 commands BEGIN and MEASURE (42_aht20_protocol.md R200 to R209): the command's framed write, the state in
which the delay is answered, and the framed read after it, each by the endpoint's replies and with the emulator.
-/

namespace Sys2Proof.Machine

/-! ### The framed write of a command -/

/-- A framed write that fails at byte `k` of all it sends, the address byte being byte 0 (R180). -/
theorem frameWrite_external_firstFailure {s : State} (addr7 : BitVec 7) (bs : List Byte) {k : Nat} {r : AckOutcome}
    {w : List AckOutcome} (he : s.params.endpoint = .external) (hk : k ≤ bs.length) (hr : r ≠ .ack)
    (hw : s.oracle.writeReplies = List.replicate k .ack ++ r :: w) :
    frameWrite s addr7 bs =
      { outcome := r, count := k - 1,
        state := { s with
          log := s.log ++ [.start] ++ ((addressByte addr7 .write :: bs).take k).map (fun b => .write b .ack) ++
            [.write ((addressByte addr7 .write :: bs).getD k 0) r, .stop]
          oracle := s.left w s.oracle.readReplies } } := by
  cases k with
  | zero =>
    rw [frameWrite_external_address addr7 bs he hr hw]
    simp [State.left]
  | succ k =>
    rw [frameWrite_external_failed addr7 bs he hk hr hw]
    simp [State.left]

/-- The events of a command `bs` that the sensor ACKs whole, and of the delay after it (R200). -/
def commandEvents (bs : List Byte) (ms : Nat) : List Event :=
  .start :: .write 0x70 .ack :: (bs.map (Event.write · .ack) ++ [.stop, .delay ms])

/-- The state in which the sensor is read: the command `bs` was ACKed whole and reported, and the host answered the delay
(R200). What the endpoint became is given: the emulator, or an external endpoint's draws. -/
def State.commandSent (s : State) (bs : List Byte) (ms : Nat) (rest : List HostAction) (emu : Emulator)
    (oracle : Oracle) : State :=
  { s with
    log := s.log ++ commandEvents bs ms
    emu := emu
    oracle := oracle
    host := rest
    outcome := .ack
    count := countField bs.length
    busOpen := false }

theorem State.commandSent_log (s : State) (bs : List Byte) (ms : Nat) (rest : List HostAction) (emu : Emulator)
    (oracle : Oracle) : (s.commandSent bs ms rest emu oracle).log = s.log ++ commandEvents bs ms := rfl

/-- The framed write of `bs` to the sensor is ACKed, and with its report and the answered delay it leads to `t`. -/
def SendsCommand (s : State) (bs : List Byte) (ms : Nat) (rest : List HostAction) (t : State) : Prop :=
  ∃ f, frameWrite s slaveAddr7 bs = f ∧ f.outcome = .ack ∧
    { f.report with log := f.state.log ++ [.delay ms], host := rest } = t

/-- An external endpoint that ACKs the address byte and the command. -/
theorem sendsCommand_external {s : State} {bs : List Byte} {w : List AckOutcome} (ms : Nat) (rest : List HostAction)
    (he : s.params.endpoint = .external)
    (hw : s.oracle.writeReplies = .ack :: (List.replicate bs.length .ack ++ w)) :
    SendsCommand s bs ms rest (s.commandSent bs ms rest s.emu (s.left w s.oracle.readReplies)) := by
  refine ⟨_, frameWrite_external_acked slaveAddr7 bs he hw, rfl, ?_⟩
  simp only [List.append_assoc]
  rfl

/-- A whole framed write to the emulator's own address is taken as a command (R243, R245). -/
theorem Emulator.framedWrite_slave (e : Emulator) (bs : List Byte) :
    (e.onStart.onWrites (addressByte slaveAddr7 .write :: bs)).onStop =
      betweenBytes (e.withCommand (bs.take 3)) false := by
  rw [Emulator.onWrites_cons, Emulator.addressed_write]
  exact Emulator.onWrites_receiving e bs

/-- The emulator ACKs every byte, and takes the command (R249, R251, R252). -/
theorem sendsCommand_emulator {s : State} (bs : List Byte) (ms : Nat) (rest : List HostAction)
    (he : s.params.endpoint = .emulator) :
    SendsCommand s bs ms rest
      (s.commandSent bs ms rest (betweenBytes (s.emu.withCommand (bs.take 3)) false) s.oracle) := by
  refine ⟨_, frameWrite_emulator slaveAddr7 bs he, rfl, ?_⟩
  rw [Emulator.framedWrite_slave]
  simp only [List.append_assoc]
  rfl

/-! ### The framed read of the sensor -/

/-- As long as the emulator is not exhausted it serves its pending bytes in order (R247). -/
theorem Emulator.serve_eq_take (e : Emulator) {n : Nat} (hn : n ≤ e.pending.length) :
    (e.serve n).1 = e.pending.take n := by
  refine List.ext_getElem (by simp [Emulator.serve_length, hn]) fun i hi _ => ?_
  have hin : i < n := by rwa [Emulator.serve_length] at hi
  have hbyte := e.serve_getElem? hin
  rw [List.getElem?_eq_getElem hi, Option.some_inj] at hbyte
  rw [hbyte, List.getElem_take, List.getD_eq_getElem _ _ (hin.trans_le hn)]

/-- The emulator delivers the canned frame, whatever its sensor flags are (R243, R247, R255). -/
theorem frameRead_emulator_canned {s : State} {n : Nat} (he : s.params.endpoint = .emulator) (hn : n ≤ 6) :
    frameRead s slaveAddr7 n =
      { outcome := .ack, bytes := cannedFrame.toList.take n, addrAcked := true,
        state := { s with
          log := s.log ++ [.start, .write 0x71 .ack] ++ readEvents n (cannedFrame.toList.take n) ++ [.stop]
          emu := betweenBytes s.emu false } } := by
  have hserve : ((s.emu.onStart.onWrite (addressByte slaveAddr7 .read)).2.serve n).1 = cannedFrame.toList.take n :=
    Emulator.serve_eq_take _ hn
  rw [frameRead_emulator slaveAddr7 n he, hserve, phaseEvents_eq_readEvents (List.length_take_le ..),
    Emulator.serve_onStop]
  rfl

/-! ### BEGIN -/

/-- BEGIN whose command is ACKed and whose delay is answered goes on to its status read (R200, R203). -/
theorem exec_begin_answered {s t : State} {rest : List HostAction} (hb : s.busEn = true)
    (hh : s.host = .answerDelay :: rest) (ht : SendsCommand s calCmd s.params.delayBeginMs rest t) :
    exec .begin s = .next ((beginStatusRead t).complete .begin) := by
  obtain ⟨_, rfl, hack, rfl⟩ := ht
  exact execBegin_answered hb rfl hack ((frameWrite_frame s slaveAddr7 calCmd).host.trans hh)

/-- BEGIN with the emulator, its delay answered: it calibrates and reads the canned status byte (R203, R209). -/
theorem exec_begin_emulator {s : State} {rest : List HostAction} (hb : s.busEn = true)
    (he : s.params.endpoint = .emulator) (hh : s.host = .answerDelay :: rest) :
    exec .begin s = .next
      { s with
        log := s.log ++ [.start, .write 0x70 .ack, .write 0xBE .ack, .write 0x08 .ack, .write 0x00 .ack, .stop,
          .delay s.params.delayBeginMs, .start, .write 0x71 .ack, .read .nack (.delivered 0x08), .stop]
        emu := { betweenBytes s.emu false with calibrated := true }
        host := rest
        outcome := .ack
        count := 1
        busOpen := false
        ahtStatus := 0x08
        ahtResult := .ok
        cmd := 0x70000000
        result := some .ok } := by
  have hemu : betweenBytes (s.emu.withCommand calCmd) false = { betweenBytes s.emu false with calibrated := true } := by
    simp [Emulator.withCommand, betweenBytes, calCmd]
  rw [exec_begin_answered hb hh (sendsCommand_emulator calCmd _ rest he),
    beginStatusRead_received (frameRead_emulator_canned (by exact he) (by decide)) rfl rfl, ← hemu]
  simp only [State.commandSent_log, List.append_assoc]
  rfl

/-- Settles O25: a failed calibrate write ends it, and after the delay the status read is reported by its reply. -/
theorem beginReportsTheSensor : Obligations.BeginReportsTheSensor := by
  unfold Obligations.BeginReportsTheSensor
  refine fun s => ⟨regWrite_of_decode s rfl,
    fun v hop h => refusesWord_of_reservedField s (f := (0, 28)) hop (by decide) h, needsBus_of_usesBus rfl s,
    fun hb he => ⟨fun k r w hk hr hw => ?_, fun rest r w hh hr hw => ?_, fun rest w reply q hh hw hq => ?_⟩,
    fun rest hb he hh => exec_begin_emulator hb he hh⟩
  · exact execBegin_failed hb (frameWrite_external_firstFailure slaveAddr7 calCmd he hk hr hw) hr
  · rw [exec_begin_answered hb hh (sendsCommand_external _ rest he hw),
      beginStatusRead_failed (frameRead_external_address slaveAddr7 1 (by exact he) hr rfl) hr]
    simp only [State.commandSent_log, List.append_assoc]
    rfl
  · rw [exec_begin_answered hb hh (sendsCommand_external _ rest he hw)]
    cases reply with
    | delivered b =>
      rw [beginStatusRead_received (frameRead_external_delivered slaveAddr7 [b] (by exact he) rfl (by exact hq)) rfl rfl]
      simp only [State.commandSent_log, List.append_assoc]
      rfl
    | terr =>
      rw [beginStatusRead_failed (frameRead_external_terr slaveAddr7 [] (by exact he) (by decide) rfl (by exact hq))
        (show AckOutcome.terr ≠ .ack by decide)]
      simp only [State.commandSent_log, List.append_assoc]
      rfl

/-- Settles O27: the host's write of the word runs BEGIN, and with the emulator that ends ready. -/
theorem beginWithTheEmulatorIsAlwaysReady : Obligations.BeginWithTheEmulatorIsAlwaysReady := by
  unfold Obligations.BeginWithTheEmulatorIsAlwaysReady
  intro s rest hhung hb he hhost
  have hstep : step s = exec .begin { s with host := .answerDelay :: rest } := by
    rw [step_cons hhung hhost]
    exact regWrite_of_decode (v := 0x70000000) _ rfl
  exact ⟨_, hstep.trans (exec_begin_emulator hb he rfl), rfl, rfl, rfl, rfl⟩

/-! ### MEASURE -/

/-- MEASURE whose command is ACKed and whose delay is answered goes on to its frame read (R200, R205). -/
theorem exec_measure_answered {s t : State} {rest : List HostAction} (hb : s.busEn = true)
    (hh : s.host = .answerDelay :: rest) (ht : SendsCommand s trigCmd s.params.delayMeasMs rest t) :
    exec .measure s = .next ((measureRead t).complete .measure) := by
  obtain ⟨_, rfl, hack, rfl⟩ := ht
  exact execMeasure_answered hb rfl hack ((frameWrite_frame s slaveAddr7 trigCmd).host.trans hh)

/-- An ACKed address and fewer than six bytes are a short read (R205). -/
theorem measureResult_short {n : Nat} (h : n < 6) : measureResult true n = .shortRead := by
  simp [measureResult, h]

/-- Storing as many bytes as the buffer holds replaces it (R205). -/
theorem storeBytes_toList {m : Nat} (v w : Vector Byte m) : storeBytes v w.toList = w := by
  refine Vector.ext fun j hj => (getElem_storeBytes v w.toList ⟨j, hj⟩).trans ?_
  simp [hj]

/-- Settles O26: a failed trigger write ends it, and after the delay the frame read is reported by the bytes received. -/
theorem measureReportsTheFrame : Obligations.MeasureReportsTheFrame := by
  unfold Obligations.MeasureReportsTheFrame
  refine fun s => ⟨regWrite_of_decode s rfl,
    fun v hop h => refusesWord_of_reservedField s (f := (0, 28)) hop (by decide) h, needsBus_of_usesBus rfl s,
    fun hb he => ⟨fun k r w hk hr hw => ?_, fun rest r w hh hr hw => ?_, fun rest w bs q hh hw hlen hq => ?_,
      fun rest w b0 b1 b2 b3 b4 b5 q hh hw hq => ?_⟩, fun rest hb he hh => ?_⟩
  · exact execMeasure_failed hb (frameWrite_external_firstFailure slaveAddr7 trigCmd he hk hr hw) hr
  · rw [exec_measure_answered hb hh (sendsCommand_external _ rest he hw),
      measureRead_of (frameRead_external_address slaveAddr7 6 (by exact he) hr rfl)]
    simp only [State.commandSent_log, List.append_assoc]
    rfl
  · have hend := exec_measure_answered hb hh (sendsCommand_external _ rest he hw)
    rw [measureRead_of (frameRead_external_terr slaveAddr7 bs (by exact he) hlen rfl (by exact hq)),
      measureResult_short hlen, phaseEvents_eq_readEvents hlen.le, polFor_eq_ackOfByte hlen] at hend
    refine ⟨_, hend, ?_, getElem_storeBytes s.frame bs⟩
    simp only [State.commandSent_log, List.append_assoc]
    rfl
  · have hframe : storeBytes s.frame [b0, b1, b2, b3, b4, b5] = #v[b0, b1, b2, b3, b4, b5] :=
      storeBytes_toList s.frame #v[b0, b1, b2, b3, b4, b5]
    rw [exec_measure_answered hb hh (sendsCommand_external _ rest he hw), ← hframe, measureRead_of
      (frameRead_external_delivered slaveAddr7 [b0, b1, b2, b3, b4, b5] (by exact he) rfl (by exact hq))]
    simp only [State.commandSent_log, List.append_assoc]
    rfl
  · have hemu : betweenBytes (s.emu.withCommand trigCmd) false =
        { betweenBytes s.emu false with measTriggered := s.emu.measTriggered || s.emu.calibrated } := by
      simp [Emulator.withCommand, betweenBytes, trigCmd]
    have hframe : storeBytes s.frame (cannedFrame.toList.take 6) = #v[0x08, 0xAA, 0xAA, 0xAB, 0xBB, 0xBB] :=
      storeBytes_toList s.frame cannedFrame
    rw [exec_measure_answered hb hh (sendsCommand_emulator trigCmd _ rest he), ← hemu, ← hframe,
      measureRead_of (frameRead_emulator_canned (by exact he) le_rfl)]
    simp only [State.commandSent_log, List.append_assoc]
    rfl

end Sys2Proof.Machine
end

section
/-!
PROOFS. The measurement decoder (43_measurement_decoder.md R220 to R231): the raw values and the conversions as numbers, the
packing undone, and the next states of DECODE and CONV.
-/

namespace Sys2Proof.Machine

/-! ### Extraction -/

/-- A value shifted left, with a smaller one beneath it, packs the two as digits. -/
theorem toNat_shiftLeft_or {n k : Nat} {a b : BitVec n} (ha : a.toNat * 2 ^ k < 2 ^ n) (hb : b.toNat < 2 ^ k) :
    (a <<< k ||| b).toNat = a.toNat * 2 ^ k + b.toNat := by
  rw [BitVec.toNat_or, BitVec.toNat_shiftLeft, Nat.shiftLeft_eq, Nat.mod_eq_of_lt ha, ← Nat.shiftLeft_eq,
    Nat.shiftLeft_add_eq_or_of_lt hb]

/-- Three values at descending places, each below the place above it, pack as digits. -/
theorem toNat_threeDigits {n j k : Nat} {a b c : BitVec n} (hc : c.toNat < 2 ^ k) (hb : b.toNat * 2 ^ k + c.toNat < 2 ^ j)
    (ha : a.toNat * 2 ^ j < 2 ^ n) (hj : 2 ^ j ≤ 2 ^ n) :
    (a <<< j ||| b <<< k ||| c).toNat = a.toNat * 2 ^ j + b.toNat * 2 ^ k + c.toNat := by
  have hlow : (b <<< k ||| c).toNat = b.toNat * 2 ^ k + c.toNat := toNat_shiftLeft_or (by omega) hc
  rw [BitVec.or_assoc, toNat_shiftLeft_or ha (by omega), hlow, Nat.add_assoc]

theorem toNat_setWidth_byte (b : Byte) : (b.setWidth 20).toNat = b.toNat := BitVec.toNat_setWidth_of_le (by decide)

/-- RawH as the number its bytes pack (R220). -/
theorem rawHOf_toNat (f : Vector Byte 6) :
    (rawHOf f).toNat = f[1].toNat * 4096 + f[2].toNat * 16 + f[3].toNat / 16 := by
  have hnibble : (f[3].setWidth 20 >>> 4).toNat = f[3].toNat / 16 := by
    rw [BitVec.toNat_ushiftRight, toNat_setWidth_byte, Nat.shiftRight_eq_div_pow]
  have h1 := toNat_setWidth_byte f[1]
  have h2 := toNat_setWidth_byte f[2]
  rw [rawHOf, toNat_threeDigits] <;> omega

/-- RawT as the number its bytes pack (R221). -/
theorem rawTOf_toNat (f : Vector Byte 6) :
    (rawTOf f).toNat = f[3].toNat % 16 * 65536 + f[4].toNat * 256 + f[5].toNat := by
  have hnibble : ((f[3] &&& 0x0F).setWidth 20).toNat = f[3].toNat % 16 :=
    (toNat_setWidth_byte _).trans (Nat.and_two_pow_sub_one_eq_mod f[3].toNat 4)
  have h4 := toNat_setWidth_byte f[4]
  have h5 := toNat_setWidth_byte f[5]
  rw [rawTOf, toNat_threeDigits] <;> omega

/-- Settles O29: the numbers of the two raw values, and the flag as it is defined. -/
theorem rawValuesAreTheirPackedBytes : Obligations.RawValuesAreTheirPackedBytes := by
  unfold Obligations.RawValuesAreTheirPackedBytes
  exact fun f => ⟨rawHOf_toNat f, rawTOf_toNat f, rfl⟩

/-! ### Conversion -/

/-- The 32-bit product of ConvH does not wrap around (R225). -/
theorem convH_toNat (r : Word) : (convH r).toNat = r.toNat * 100 / 1048576 := by
  rw [convH, BitVec.toNat_ofNat, Nat.mod_eq_of_lt (by omega)]

/-- ConvT is a signed 32-bit number, below 0 for small values (R226). -/
theorem convT_toInt (r : Word) : (convT r).toInt = (r.toNat : Int) * 200 / 1048576 - 50 := by
  rw [convT, BitVec.toInt_ofInt_eq_self (by decide) (by omega) (by omega)]
  push_cast
  rfl

/-- Settles O30: both values are exact quotients, so a bound on the input bounds them. -/
theorem conversionsAreExact : Obligations.ConversionsAreExact := by
  unfold Obligations.ConversionsAreExact
  intro r
  have hr := r.isLt
  rw [convH_toNat, convT_toInt]
  refine ⟨rfl, ?_, rfl, ?_, ?_, fun h => ⟨?_, ?_⟩⟩ <;> omega

/-! ### Packing -/

/-- The byte of a packed frame that the two raw values share (R231). -/
theorem packFrame_sharedByte_toNat (status : Byte) (h t : BitVec 20) :
    (packFrame status h t)[3].toNat = h.toNat % 16 * 16 + t.toNat / 65536 := by
  have hlow : ((bitField t 16 4).setWidth 8).toNat = t.toNat / 65536 := by
    simp [bitField, Nat.shiftRight_eq_div_pow]
    omega
  have hhigh : ((bitField h 0 4).setWidth 8).toNat = h.toNat % 16 := by
    simp [bitField]
    omega
  exact (toNat_shiftLeft_or (by omega) (by omega)).trans (by omega)

theorem rawHOf_packFrame (status : Byte) (h t : BitVec 20) : rawHOf (packFrame status h t) = h := by
  refine BitVec.eq_of_toNat_eq ?_
  have h1 : (packFrame status h t)[1].toNat = h.toNat / 4096 % 256 := by
    simp [packFrame, bitField, Nat.shiftRight_eq_div_pow]
  have h2 : (packFrame status h t)[2].toNat = h.toNat / 16 % 256 := by
    simp [packFrame, bitField, Nat.shiftRight_eq_div_pow]
  rw [rawHOf_toNat, packFrame_sharedByte_toNat, h1, h2]
  omega

theorem rawTOf_packFrame (status : Byte) (h t : BitVec 20) : rawTOf (packFrame status h t) = t := by
  refine BitVec.eq_of_toNat_eq ?_
  have h4 : (packFrame status h t)[4].toNat = t.toNat / 256 % 256 := by
    simp [packFrame, bitField, Nat.shiftRight_eq_div_pow]
  have h5 : (packFrame status h t)[5].toNat = t.toNat % 256 := by
    simp [packFrame, bitField]
  rw [rawTOf_toNat, packFrame_sharedByte_toNat, h4, h5]
  omega

/-- Settles O31: the frame is the definition's, and its raw values are the ones packed. -/
theorem packingIsTheInverseOfExtraction : Obligations.PackingIsTheInverseOfExtraction := by
  unfold Obligations.PackingIsTheInverseOfExtraction
  exact fun status h t => ⟨rfl, rawHOf_packFrame status h t, rawTOf_packFrame status h t, rfl⟩

/-! ### DECODE and CONV -/

/-- DECODE in every state (R223). -/
theorem exec_decode (s : State) : exec .decode s = .next
    { s with
      rawH := rawHOf s.frame
      rawT := rawTOf s.frame
      hum := convH ((rawHOf s.frame).setWidth 32)
      temp := convT ((rawTOf s.frame).setWidth 32)
      dcal := s.frame[0].getLsbD 3
      cmd := 0x90000000
      result := some .ok } := rfl

/-- Settles O32: the word decodes, other words of the opcode set a reserved bit, and the three frames are computed. -/
theorem decodeExtractsAndConverts : Obligations.DecodeExtractsAndConverts := by
  unfold Obligations.DecodeExtractsAndConverts
  refine fun s => ⟨regWrite_of_decode s rfl,
    fun v hop h => refusesWord_of_reservedField s (f := (0, 28)) hop (by decide) h, exec_decode s, ?_, ?_, ?_⟩
  all_goals
    intro hframe
    rw [hframe]
    decide

/-- CONV H in every state (R224). -/
theorem exec_conv_humidity (s : State) :
    exec (.conv .humidity) s = .next { s with hum := convH s.rawIn, cmd := 0xA0000000, result := some .ok } := rfl

/-- CONV T in every state (R224). -/
theorem exec_conv_temperature (s : State) :
    exec (.conv .temperature) s = .next { s with temp := convT s.rawIn, cmd := 0xA0000001, result := some .ok } := rfl

/-- Settles O33: both words decode, other words of the opcode set a reserved bit, and the five values are computed. -/
theorem convConvertsRawIn : Obligations.ConvConvertsRawIn := by
  unfold Obligations.ConvConvertsRawIn
  exact fun s => ⟨regWrite_of_decode s rfl, regWrite_of_decode s rfl,
    fun v hop h => refusesWord_of_reservedField s (f := (1, 27)) hop (by decide) h,
    exec_conv_humidity s, exec_conv_temperature s, by decide⟩

end Sys2Proof.Machine
end

section
/-!
PROOFS. The slave emulator (44_slave_emulator.md R240 to R259): its reaction to each class of written byte and of read
request, the transition table, the frames that are no command, and its invariants.
-/

namespace Sys2Proof.Machine

/-! ### Written bytes, by what the emulator takes them for -/

/-- While the address is awaited a written byte is an address byte (R242). -/
theorem Emulator.onWrite_address {e : Emulator} (b : Byte) (ha : e.awaitAddr = true) :
    e.onWrite b = (.ack, e.onAddress b) := by
  simp [Emulator.onWrite, ha]

/-- After the address a byte in ReceivingCommand is a command byte (R242, R245). -/
theorem Emulator.onWrite_commandByte {e : Emulator} (b : Byte) (ha : e.awaitAddr = false)
    (hs : e.st = .receivingCommand) : e.onWrite b = (.ack, e.onCommandByte b) := by
  simp [Emulator.onWrite, ha, hs]

/-- After the address a byte outside ReceivingCommand is ignored (R246). -/
theorem Emulator.onWrite_ignored {e : Emulator} (b : Byte) (ha : e.awaitAddr = false)
    (hs : e.st ≠ .receivingCommand) : e.onWrite b = (.ack, e) := by
  cases h : e.st with
  | receivingCommand => exact absurd h hs
  | idle | sendingData => simp [Emulator.onWrite, ha, h]

/-- An address byte that is neither of the emulator's own ends the wait and nothing else (R244). -/
theorem Emulator.onAddress_foreign (e : Emulator) {b : Byte} (hw : b ≠ addrW) (hr : b ≠ addrR) :
    e.onAddress b = { e with awaitAddr := false } := by
  simp [Emulator.onAddress, classifyAddress, hw, hr]

/-- A command byte is stored at the place CMD_CNT gives while that is one of the three of CMD_BUF (R245). -/
theorem Emulator.append_eq {e : Emulator} (b : Byte) {i : Fin 3} (hi : e.cmdCnt = i.castSucc) :
    e.append b = { e with cmdBuf := e.cmdBuf.set i b, cmdCnt := i.succ } := by
  simp [Emulator.append, hi, Vector.setIfInBounds, Array.setIfInBounds, Vector.set]

/-- A command byte before the third is only buffered (R245). -/
theorem Emulator.onCommandByte_early {e : Emulator} (b : Byte) {i : Fin 2} (hi : e.cmdCnt = i.castSucc.castSucc) :
    e.onCommandByte b = { e with cmdBuf := e.cmdBuf.set i b, cmdCnt := i.castSucc.succ } := by
  have hopen : e.cmdCnt.val < 2 := by rw [hi]; exact i.isLt
  have h3 : e.cmdCnt ≠ 3 := Fin.ne_of_lt (Nat.lt_succ_of_lt hopen)
  have h2 : e.cmdCnt ≠ 2 := Fin.ne_of_lt hopen
  rw [Emulator.onCommandByte, if_neg h3, if_neg h2]
  exact Emulator.append_eq b hi

/-- The third command byte completes the command: it is evaluated with the two before it (R245, R250 to R253). -/
theorem Emulator.onCommandByte_third {e : Emulator} (b : Byte) (hc : e.cmdCnt = 2) :
    e.onCommandByte b =
      { e.withCommand (e.cmdBuf.set 2 b).toList with cmdBuf := e.cmdBuf.set 2 b, cmdCnt := 3, st := .idle } := by
  rw [Emulator.onCommandByte, if_neg (by simp [hc]), if_pos hc, Emulator.evaluate_eq, Emulator.append_eq b (i := 2) hc]
  rfl

/-! ### Read requests -/

/-- Outside SendingData a read request gets the exhausted byte and changes nothing (R248). -/
theorem Emulator.onRead_exhausted {e : Emulator} (pol : AckPol) (hs : e.st ≠ .sendingData) :
    e.onRead pol = (.delivered exhaustedByte, e) := by
  cases h : e.st with
  | sendingData => exact absurd h hs
  | idle | receivingCommand => simp [Emulator.onRead, h]

/-- In SendingData a read request takes the next byte of the canned frame, and the last one ends the sending (R247). -/
theorem Emulator.onRead_canned {e : Emulator} (pol : AckPol) {i : Fin 6} (hs : e.st = .sendingData)
    (hi : e.sendCnt = i.castSucc) : e.onRead pol =
      (.delivered cannedFrame[i],
        { e with sendCnt := i.succ, st := if i = Fin.last 5 then .idle else .sendingData }) := by
  have hlast : i.castSucc = (5 : Fin 7) ↔ i = Fin.last 5 := Fin.castSucc_inj (b := Fin.last 5)
  simp [Emulator.onRead, hs, hi, hlast]

/-! ### The transition table and the replies -/

/-- Settles O34: each row is the reaction to its class of symbol, by CMD_CNT in ReceivingCommand and by
SEND_CNT in SendingData. -/
theorem emulatorTransitionTable : Obligations.EmulatorTransitionTable := by
  unfold Obligations.EmulatorTransitionTable
  refine fun e b pol => ⟨rfl, rfl, Emulator.onWrite_address _, Emulator.onWrite_address _,
    fun ha hw hr => ?_, fun ha hs hc => ?_, fun ha hs hc => ?_, fun ha hs hc => ?_,
    fun ha hs => Emulator.onWrite_ignored b ha (by simp [hs]),
    fun ha hs => Emulator.onWrite_ignored b ha (by simp [hs]),
    fun k hs hk => ?_, fun hs hk => Emulator.onRead_canned pol (i := 5) hs hk,
    fun hs => Emulator.onRead_exhausted pol (by simp [hs]),
    fun hs => Emulator.onRead_exhausted pol (by simp [hs])⟩
  · rw [Emulator.onWrite_address b ha, e.onAddress_foreign hw hr]
  · rw [Emulator.onWrite_commandByte b ha hs, Emulator.onCommandByte_early b (i := 0) hc]
    rfl
  · rw [Emulator.onWrite_commandByte b ha hs, Emulator.onCommandByte_early b (i := 1) hc]
    rfl
  · rw [Emulator.onWrite_commandByte b ha hs, Emulator.onCommandByte_third b hc, ← Vector.toList_beq_toList,
      ← Vector.toList_beq_toList]
    rfl
  · refine ⟨_, Emulator.onRead_canned pol (i := k.castSucc) hs (Fin.ext hk), ?_, rfl⟩
    rw [if_neg k.castSucc_ne_last, ← hs]

/-- Settles O35: every written byte is ACKed, every read request delivers, and the polarity is not looked at. -/
theorem emulatorNeverRefuses : Obligations.EmulatorNeverRefuses := by
  unfold Obligations.EmulatorNeverRefuses
  exact fun e b => ⟨e.onWrite_reply b, e.onRead_delivers .ack, e.onRead_pol .nack .ack⟩

/-! ### A whole command -/

/-- A completed command that is neither CommandFrame changes no sensor flag (R253). -/
theorem Emulator.withCommand_unrecognized (e : Emulator) {bs : List Byte} (hcal : bs ≠ [0xBE, 0x08, 0x00])
    (htrig : bs ≠ [0xAC, 0x33, 0x00]) : e.withCommand bs = e := by
  rw [Emulator.withCommand, beq_eq_false_iff_ne.mpr hcal, beq_eq_false_iff_ne.mpr htrig]
  simp

/-- A command byte before the third is buffered, and the rest of the written bytes goes on from there (R245). -/
theorem Emulator.onWrites_early {e : Emulator} (b : Byte) (bs : List Byte) {i : Fin 2} (ha : e.awaitAddr = false)
    (hs : e.st = .receivingCommand) (hi : e.cmdCnt = i.castSucc.castSucc) : e.onWrites (b :: bs) =
      Emulator.onWrites { e with cmdBuf := e.cmdBuf.set i b, cmdCnt := i.castSucc.succ } bs := by
  rw [Emulator.onWrites_cons, Emulator.onWrite_commandByte b ha hs, Emulator.onCommandByte_early b hi]

/-- The third command byte leaves the emulator Idle with the command evaluated (R245, R250 to R253). -/
theorem Emulator.onWrites_third {e : Emulator} (b : Byte) (ha : e.awaitAddr = false)
    (hs : e.st = .receivingCommand) (hc : e.cmdCnt = 2) : e.onWrites [b] =
      { e.withCommand (e.cmdBuf.set 2 b).toList with cmdBuf := e.cmdBuf.set 2 b, cmdCnt := 3, st := .idle } := by
  rw [Emulator.onWrites_cons, Emulator.onWrite_commandByte b ha hs, Emulator.onCommandByte_third b hc,
    Emulator.onWrites_nil]

/-- Three command bytes from the begin of a command on fill the buffer and are evaluated (R245, R250). -/
theorem Emulator.onWrites_wholeCommand {e : Emulator} (b₀ b₁ b₂ : Byte) (ha : e.awaitAddr = false)
    (hs : e.st = .receivingCommand) (hc : e.cmdCnt = 0) : e.onWrites [b₀, b₁, b₂] =
      { e.withCommand [b₀, b₁, b₂] with cmdBuf := #v[b₀, b₁, b₂], cmdCnt := 3, st := .idle } := by
  have hbuf : ((e.cmdBuf.set 0 b₀).set 1 b₁).set 2 b₂ = #v[b₀, b₁, b₂] :=
    Vector.ext fun i hi => by interval_cases i <;> simp
  calc e.onWrites [b₀, b₁, b₂]
    _ = Emulator.onWrites { e with cmdBuf := e.cmdBuf.set 0 b₀, cmdCnt := 1 } [b₁, b₂] :=
      Emulator.onWrites_early b₀ _ (i := 0) ha hs hc
    _ = Emulator.onWrites { e with cmdBuf := (e.cmdBuf.set 0 b₀).set 1 b₁, cmdCnt := 2 } [b₂] :=
      Emulator.onWrites_early b₁ _ (i := 1) ha hs rfl
    _ = _ := by
      refine Eq.trans (Emulator.onWrites_third b₂ ha hs rfl) ?_
      rw [hbuf]
      rfl

/-- Settles O38: the three bytes fill the buffer, and evaluating them changes no flag. -/
theorem unrecognizedFrameChangesNoFlag : Obligations.UnrecognizedFrameChangesNoFlag := by
  unfold Obligations.UnrecognizedFrameChangesNoFlag
  intro e b₀ b₁ b₂ ha hs hc hcal htrig
  rw [Emulator.onWrites_wholeCommand b₀ b₁ b₂ ha hs hc, e.withCommand_unrecognized hcal htrig]

/-! ### The invariants -/

/-- Start and Stop leave the emulator Idle with both counters 0, and its flags as they were (R240, R241, R259). -/
theorem Emulator.resetTransaction_inv {e : Emulator} (await : Bool) (h : e.Inv) : (e.resetTransaction await).Inv where
  await_idle _ := ⟨rfl, rfl, rfl⟩
  receiving_open := nofun
  sending_open := nofun
  triggered_calibrated := h.triggered_calibrated

/-- An address byte ends the wait, and opens at most a command or a sending with its counter 0 (R243, R244, R259). -/
theorem Emulator.onAddress_inv {e : Emulator} (b : Byte) (h : e.Inv) : (e.onAddress b).Inv := by
  unfold Emulator.onAddress
  cases classifyAddress b with
  | writeAddress => exact ⟨nofun, fun _ => Nat.zero_le 2, nofun, h.triggered_calibrated⟩
  | readAddress => exact ⟨nofun, nofun, fun _ => Nat.zero_le 5, h.triggered_calibrated⟩
  | foreign => exact ⟨nofun, h.receiving_open, h.sending_open, h.triggered_calibrated⟩

/-- A completed command sets MEAS_TRIGGERED only where CALIBRATED is set (R252, R259). -/
theorem Emulator.withCommand_triggered_calibrated {e : Emulator} (bs : List Byte)
    (h : e.measTriggered = true → e.calibrated = true) :
    (e.withCommand bs).measTriggered = true → (e.withCommand bs).calibrated = true := by
  simp only [Emulator.withCommand, Bool.or_eq_true, Bool.and_eq_true]
  rintro (hm | ⟨hc, -⟩)
  · exact .inl (h hm)
  · exact .inl hc

/-- A command byte leaves CMD_CNT at most 2 or ends the command (R245, R259). -/
theorem Emulator.onCommandByte_inv {e : Emulator} (b : Byte) (ha : e.awaitAddr = false) (hs : e.st = .receivingCommand)
    (h : e.Inv) : (e.onCommandByte b).Inv := by
  obtain hc | hc := (h.receiving_open hs).lt_or_eq
  · rw [Emulator.onCommandByte_early b (i := ⟨e.cmdCnt, hc⟩) rfl]
    exact ⟨fun hawait => absurd hawait (by simp [ha]), fun _ => hc, h.sending_open, h.triggered_calibrated⟩
  · rw [Emulator.onCommandByte_third b (Fin.ext hc)]
    exact ⟨fun hawait => absurd hawait (by simp [Emulator.withCommand, ha]), nofun, nofun,
      Emulator.withCommand_triggered_calibrated _ h.triggered_calibrated⟩

/-- A written byte keeps the invariants, as an address byte, a command byte or an ignored one (R242, R246, R259). -/
theorem Emulator.onWrite_inv {e : Emulator} (b : Byte) (h : e.Inv) : (e.onWrite b).2.Inv := by
  cases ha : e.awaitAddr with
  | true =>
    rw [Emulator.onWrite_address b ha]
    exact Emulator.onAddress_inv b h
  | false =>
    by_cases hs : e.st = .receivingCommand
    · rw [Emulator.onWrite_commandByte b ha hs]
      exact Emulator.onCommandByte_inv b ha hs h
    · rw [Emulator.onWrite_ignored b ha hs]
      exact h

/-- A read request leaves SEND_CNT at most 5 or ends the sending (R247, R248, R259). -/
theorem Emulator.onRead_inv {e : Emulator} (pol : AckPol) (h : e.Inv) : (e.onRead pol).2.Inv := by
  by_cases hs : e.st = .sendingData
  · have hnotAwaiting : ¬ e.awaitAddr = true := fun ha => by
      obtain ⟨hidle, -, -⟩ := h.await_idle ha
      simp [hs] at hidle
    have hlt : e.sendCnt.val < 6 := Nat.lt_succ_of_le (h.sending_open hs)
    rw [Emulator.onRead_canned pol (i := ⟨e.sendCnt, hlt⟩) hs rfl]
    refine ⟨fun ha => absurd ha hnotAwaiting, ?_, ?_, h.triggered_calibrated⟩
    · intro hreceiving
      dsimp only at hreceiving
      split at hreceiving <;> cases hreceiving
    · intro hsending
      dsimp only at hsending
      split at hsending
      · cases hsending
      · next hlast =>
        exact Fin.val_lt_last hlast
  · rw [Emulator.onRead_exhausted pol hs]
    exact h

/-- Settles O39: the reset emulator is Idle with its flags clear, and each of the four symbols keeps the invariants. -/
theorem emulatorInvariantIsKept : Obligations.EmulatorInvariantIsKept := by
  unfold Obligations.EmulatorInvariantIsKept
  exact ⟨⟨nofun, nofun, nofun, nofun⟩, fun e h => ⟨Emulator.resetTransaction_inv true h,
    Emulator.resetTransaction_inv false h, fun b => Emulator.onWrite_inv b h, fun pol => Emulator.onRead_inv pol h⟩⟩

end Sys2Proof.Machine
end

section
/-!
PROOFS. The system commands NOP and CLRERR (46_system.md R280, R281): their words, the words of their opcodes that are
refused, and their next states, which ask nothing of BUS_EN.
-/

namespace Sys2Proof.Machine

/-- NOP in every state (R280). -/
theorem exec_nop (s : State) : exec .nop s = .next { s with cmd := 0x00000000, result := some .ok } := rfl

/-- CLRERR in every state: the error record is kept (R61, R281). -/
theorem exec_clrerr (s : State) :
    exec .clrerr s = .next { s with err := none, cmd := 0xB0000000, result := some .ok } := rfl

/-- Settles O40: the word decodes, other words of the opcode set a reserved bit, and the next state is `exec_nop`. -/
theorem nopDoesNothing : Obligations.NopDoesNothing := by
  unfold Obligations.NopDoesNothing
  exact fun s => ⟨regWrite_of_decode s rfl,
    fun v hop h => refusesWord_of_reservedField s (f := (0, 28)) hop (by decide) h, exec_nop s⟩

/-- Settles O41: the word decodes, other words of the opcode set a reserved bit, and the next state is `exec_clrerr`. -/
theorem clrerrClearsErr : Obligations.ClrerrClearsErr := by
  unfold Obligations.ClrerrClearsErr
  exact fun s => ⟨regWrite_of_decode s rfl,
    fun v hop h => refusesWord_of_reservedField s (f := (0, 28)) hop (by decide) h, exec_clrerr s⟩

end Sys2Proof.Machine
end

section
/-!
PROOFS. Errors (60_exceptions.md R291 to R300, R304): the error response is all that an access answering Err does, which
commands raise which error and in what order, and what is left of the block without a bus.
-/

namespace Sys2Proof.Machine

/-! ### Precision -/

/-- A step whose access answers Err is the error response to that access (R291). -/
theorem step_of_answered_err {s t : State} {off : Offset} {c : ErrorCode} (h : step s = .next t)
    (ha : s.nextAccess = some off) (hr : t.result = some (.err c)) :
    t = errorResponse { s with host := s.host.tail } c off := by
  rcases step_end h with ⟨off', ha', hend⟩ | ⟨hnone, -⟩
  · obtain rfl : off = off' := by simpa [ha] using ha'
    cases hend with
    | raised c' ht =>
      obtain rfl : c' = c := by simpa [ht] using hr
      exact ht.trans (State.raise_eq_errorResponse _ c' off)
    | answered hno _ => exact absurd hr (hno c)
  · simp [ha] at hnone

/-- Settles O12: an access that answers Err ended in the error response. -/
theorem errorsArePrecise : Obligations.ErrorsArePrecise := by
  unfold Obligations.ErrorsArePrecise
  intro s t rest off v c _ hs h hr
  have ha : s.nextAccess = some off := by rcases hs with hs | hs <;> simp [State.nextAccess, hs]
  have htail : s.host.tail = rest := by rcases hs with hs | hs <;> simp [hs]
  exact htail ▸ step_of_answered_err h ha hr

/-! ### Who raises what -/

/-- The eight commands that R295 lists, with any operands. -/
theorem usesBus_of_mem {b : Byte} {pol : AckPol} {a : BitVec 7} {n : BitVec 4} {i : Instr}
    (h : i ∈ [Instr.start, .stop, .wrb b, .rdb pol, .fwr a n, .frd a n, .begin, .measure]) : i.usesBus = true := by
  revert i
  simp [Instr.usesBus]

/-- The two commands that R296 lists, with any operands. -/
theorem usesOpenTransaction_of_mem {b : Byte} {pol : AckPol} {i : Instr} (h : i ∈ [Instr.wrb b, .rdb pol]) :
    i.usesOpenTransaction = true := by
  revert i
  simp [Instr.usesOpenTransaction]

/-- A host command that does not use the bus answers Ok in every state (R223, R224, R280, R281, R295). -/
theorem exec_ok_of_not_usesBus {i : Instr} (hi : i.isHostCommand = true) (hb : i.usesBus = false) (s : State) :
    ∃ t, exec i s = .next t ∧ t.result = some .ok := by
  cases i with
  | nop => exact ⟨_, exec_nop s, rfl⟩
  | decode => exact ⟨_, exec_decode s, rfl⟩
  | conv kind =>
    cases kind with
    | humidity => exact ⟨_, exec_conv_humidity s, rfl⟩
    | temperature => exact ⟨_, exec_conv_temperature s, rfl⟩
  | clrerr => exact ⟨_, exec_clrerr s, rfl⟩
  | start | stop | wrb | rdb | fwr | frd | begin | measure => cases hb
  | emuAddrW | emuAddrR | emuCal | emuTrig => cases hi

/-- Settles O16: the two checks raise for the commands they are about, and the four others pass both. -/
theorem busCommandsNeedTheBus : Obligations.BusCommandsNeedTheBus := by
  unfold Obligations.BusCommandsNeedTheBus
  refine fun s b pol a n k => ⟨fun i hi => needsBus_of_usesBus (usesBus_of_mem hi) s, fun i hi => ?_,
    fun i hi => needsOpen_of_usesOpenTransaction (usesOpenTransaction_of_mem hi) s, rfl, rfl⟩
  obtain ⟨hcommand, hbusless⟩ : i.isHostCommand = true ∧ i.usesBus = false := by
    revert i
    simp [Instr.isHostCommand, Instr.usesBus]
  exact exec_ok_of_not_usesBus hcommand hbusless s

/-- Settles O10: the nine registers are read-only, and CONFIG is stored without an error. -/
theorem writeOfReadOnlyRegisterRaisesReadOnly : Obligations.WriteOfReadOnlyRegisterRaisesReadOnly := by
  unfold Obligations.WriteOfReadOnlyRegisterRaisesReadOnly
  exact fun s v => ⟨fun r hr => regWrite_readOnly s v (isReadOnly_of_mem hr), rfl,
    _, regWrite_store s (r := .config) v rfl (by decide), rfl, rfl, rfl⟩

/-- Settles O13: each check raises its error once the checks before it have passed; 0x30000170 sets a reserved bit. -/
theorem errorPriority : Obligations.ErrorPriority := by
  unfold Obligations.ErrorPriority
  refine fun s off v => ⟨regWrite_unmapped s v, fun r hr hro => ?_,
    fun h => (regWrite_cmd s v).trans (executeWord_illegal s h), fun i hd hb hi => ?_, fun i hd hb ho hi => ?_,
    fun _ => refusesWord_of_reservedField s (op := 0x3) (f := (8, 20)) rfl (by decide) (by decide)⟩
  · obtain rfl := regAt_eq_some_iff.mp hr
    exact regWrite_readOnly s v hro
  · have hbare : ∀ j ∈ [Instr.start, .stop, .begin, .measure], j.usesBus = true := by decide
    have huses : i.usesBus = true := by
      rcases hi with hi | ⟨b, rfl⟩ | ⟨p, rfl⟩ | ⟨a, n, rfl⟩ | ⟨a, n, rfl⟩
      · exact hbare i hi
      all_goals rfl
    exact (regWrite_of_decode s hd).trans (needsBus_of_usesBus huses s hb)
  · have huses : i.usesOpenTransaction = true := by rcases hi with ⟨b, rfl⟩ | ⟨p, rfl⟩ <;> rfl
    exact (regWrite_of_decode s hd).trans (needsOpen_of_usesOpenTransaction huses s hb ho)

/-! ### A block without a bus -/

/-- Between `s` and `t` the bus stayed off: BUS_EN is 0, the parameters are as they were and nothing was logged. -/
structure StaysSilent (s t : State) : Prop where
  busEn : t.busEn = false
  params : t.params = s.params
  log : t.log = s.log

theorem State.raise_staysSilent {s : State} (c : ErrorCode) (off : Offset) (hb : s.busEn = false) :
    StaysSilent s (s.raise c off) :=
  ⟨hb, rfl, rfl⟩

theorem State.regRead_staysSilent {s : State} (off : Offset) (hb : s.busEn = false) : StaysSilent s (s.regRead off) := by
  unfold State.regRead
  split
  · exact State.raise_staysSilent .unmapped off hb
  · exact ⟨hb, rfl, rfl⟩

/-- With AVAIL = 0 no register write enables the bus (R41). -/
theorem State.storeReg_staysSilent {s : State} (r : Reg) (v : Word) (ha : s.params.busAvailable = false)
    (hb : s.busEn = false) : StaysSilent s (s.storeReg r v) := by
  cases r with
  | config => exact ⟨by simp [State.storeReg, ha], rfl, rfl⟩
  | rawIn | data | frame | cmd | status | rxb | ahtStatus | rawH | rawT | hum | temp | emuDbg | emuCmdbuf =>
    exact ⟨hb, rfl, rfl⟩

/-- No host command enables the bus or, with the bus off, logs anything (R295). -/
theorem exec_staysSilent {i : Instr} {s t : State} (hi : i.isHostCommand = true) (hb : s.busEn = false)
    (h : exec i s = .next t) : StaysSilent s t := by
  cases exec_cases hi s with
  | raised c hc =>
    obtain rfl : t = s.raise c cmdOffset := by simpa [h] using hc
    exact State.raise_staysSilent c cmdOffset hb
  | completed u w hu =>
    obtain rfl : t = u.complete i := by simpa [h] using hu
    exact ⟨w.busEn.trans hb, w.params, w.quiet hb⟩
  | hangs u w hu =>
    obtain rfl : t = u.hang := by simpa [h] using hu
    exact ⟨w.busEn.trans hb, w.params, w.quiet hb⟩

/-- A step without a bus stays silent, unless it is the reset (R304, R320). -/
theorem step_without_bus {s t : State} (ha : s.params.busAvailable = false) (hb : s.busEn = false)
    (h : step s = .next t) :
    StaysSilent s t ∨ ∃ rest, s.host = .reset :: rest ∧ t = State.applyReset { s with host := rest } := by
  rcases step_cases s with ⟨-, hf⟩ | ⟨-, -, hn⟩ | ⟨a, rest, -, hs, hcase⟩
  · simp [hf] at h
  · obtain rfl : s = t := by simpa [hn] using h
    exact .inl ⟨hb, rfl, rfl⟩
  · have hsilent {u : State} (hu : StaysSilent { s with host := rest } u) : StaysSilent s u :=
      ⟨hu.busEn, hu.params, hu.log⟩
    rcases hcase with ⟨off, rfl, hn⟩ | ⟨off, v, c, rfl, hn⟩ | ⟨off, v, r, rfl, -, -, -, hn⟩ |
      ⟨off, v, i, rfl, -, hd, hn⟩ | ⟨rfl, hn⟩ | ⟨rfl, hn⟩ <;> rw [h] at hn
    · cases hn
      exact .inl (hsilent (State.regRead_staysSilent off hb))
    · cases hn
      exact .inl (hsilent (State.raise_staysSilent c off hb))
    · cases hn
      exact .inl (hsilent (State.storeReg_staysSilent r v ha hb))
    · exact .inl (hsilent (exec_staysSilent (decode_isHostCommand hd) hb hn.symm))
    · cases hn
      exact .inl ⟨hb, rfl, rfl⟩
    · cases hn
      exact .inr ⟨rest, hs, rfl⟩

/-- Settles O53: AVAIL shows the parameter, BUS_EN = 0 refuses the eight commands, and a step is silent or the reset. -/
theorem unavailableBusStaysSilent : Obligations.UnavailableBusStaysSilent := by
  unfold Obligations.UnavailableBusStaysSilent
  refine fun s ha hb => ⟨by simp [configWord_getElem, ha],
    fun b pol a n i hi => needsBus_of_usesBus (usesBus_of_mem hi) s hb, fun t h => ?_⟩
  rcases step_without_bus ha hb h with hsilent | ⟨rest, hs, rfl⟩
  · exact ⟨hsilent.busEn, hsilent.params ▸ ha, .inl hsilent.log⟩
  · exact ⟨rfl, ha, .inr ⟨rfl, rest, hs⟩⟩

end Sys2Proof.Machine
end

section
/-!
PROOFS. Reset (70_reset_and_hazards.md R320): what every register and the emulator read after it.
-/

namespace Sys2Proof.Machine

/-! ### The registers of the reset state -/

theorem statusWord_resetWith (p : Params) : statusWord (State.resetWith p) = 0 := by
  simp only [statusWord, State.resetWith_outcome, State.resetWith_busOpen, State.resetWith_count, State.resetWith_err,
    State.resetWith_ahtResult, State.resetWith_dcal]
  decide

@[simp] theorem State.resetWith_data (p : Params) : (State.resetWith p).data = Vector.replicate 16 0 := rfl
@[simp] theorem State.resetWith_frame (p : Params) : (State.resetWith p).frame = Vector.replicate 6 0 := rfl

/-- Every register but CONFIG, which shows the parameters, resets to 0 (R32, R320). -/
theorem regValue_resetWith (p : Params) {r : Reg} (hr : r ≠ .config) : regValue (State.resetWith p) r = 0 := by
  cases r with
  | config => exact absurd rfl hr
  | status => exact statusWord_resetWith p
  | emuDbg => exact (emuViews_resetWith p).1
  | emuCmdbuf => exact (emuViews_resetWith p).2
  | data i | frame i => simp [regValue]
  | cmd | rxb | ahtStatus | rawIn | rawH | rawT | hum | temp => rfl

/-! ### The reset input -/

/-- What the reset input keeps of the state before it shows in no register but through the parameters. -/
theorem regValue_applyReset (s : State) (r : Reg) : regValue s.applyReset r = regValue (State.resetWith s.params) r :=
  rfl

theorem step_reset {s : State} {rest : List HostAction} (hh : s.hung = false) (hs : s.host = .reset :: rest) :
    step s = .next (State.applyReset { s with host := rest }) :=
  step_cons hh hs

/-- Settles O42: the step is the reset input, whose registers are those of the reset state. -/
theorem resetLeavesTheResetValues : Obligations.ResetLeavesTheResetValues := by
  unfold Obligations.ResetLeavesTheResetValues
  intro s rest hh hs
  refine ⟨State.applyReset { s with host := rest }, step_reset hh hs, rfl, rfl, rfl, fun r hr => ?_, rfl, ?_, ?_, rfl⟩
  · exact (regValue_applyReset _ r).trans (regValue_resetWith s.params hr)
  · simp [configWord_getElem]
  · simp [configWord_getElem]

end Sys2Proof.Machine
end

section
/-!
PROOFS. Decode and encode (30_encoding.md R110 to R122): a word is its opcode and its fields, so the decoder's checks leave
one word an instruction.
-/

namespace Sys2Proof.Machine

/-! ### Words by their fields -/

/-- A word is told by its opcode and by fields that cover the 28 bits below it (R110). -/
theorem opWord_eq_of_fields {v operands : Word} {op : BitVec 4} (fs : List (Nat × Nat))
    (hcover : fieldsMask ((28, 4) :: fs) = BitVec.allOnes 32) (hlow : ∀ f ∈ fs, f.1 + f.2 ≤ 28)
    (hop : opcodeOf v = op.toNat) (hclear : bitField operands 28 4 = 0)
    (hfs : fs.Forall fun f => bitField operands f.1 f.2 = bitField v f.1 f.2) : opWord op operands = v := by
  have hagree : opWord op operands &&& fieldsMask ((28, 4) :: fs) = v &&& fieldsMask ((28, 4) :: fs) := by
    rw [and_fieldsMask_eq_iff, List.forall_mem_cons]
    exact ⟨(bitField_opWord_opcode op operands hclear).trans (BitVec.eq_of_toNat_eq hop.symm),
      fun f hf => (bitField_opWord_of_le op operands (hlow f hf)).trans (List.forall_iff_forall_mem.mp hfs f hf)⟩
  rwa [hcover, BitVec.and_allOnes, BitVec.and_allOnes] at hagree

/-- A word whose operand bits are all 0 is its opcode (R112). -/
theorem opWord_zero_of_clear {v : Word} {op : BitVec 4} (hop : opcodeOf v = op.toNat) (h : bitField v 0 28 = 0) :
    opWord op 0 = v :=
  opWord_eq_of_fields [(0, 28)] (by decide) (by decide) hop rfl h.symm

theorem opWord_byte_of_fields {v : Word} {op : BitVec 4} (hop : opcodeOf v = op.toNat) (h : bitField v 8 20 = 0) :
    opWord op ((bitField v 0 8).setWidth 32) = v :=
  opWord_eq_of_fields [(8, 20), (0, 8)] (by decide) (by decide) hop (bitField_byte_above _ (by decide))
    ⟨(bitField_byte_above _ (by decide)).trans h.symm, bitField_byte _⟩

theorem opWord_framed_of_fields {v : Word} {op : BitVec 4} (hop : opcodeOf v = op.toNat) (hhigh : bitField v 23 5 = 0)
    (hmid : bitField v 4 12 = 0) : opWord op (framedOperands (bitField v 16 7) (bitField v 0 4)) = v := by
  obtain ⟨hclear, hhigh', haddr, hmid', hlen⟩ := framedOperands_fields (bitField v 16 7) (bitField v 0 4)
  exact opWord_eq_of_fields [(23, 5), (16, 7), (4, 12), (0, 4)] (by decide) (by decide) hop hclear
    ⟨hhigh'.trans hhigh.symm, haddr, hmid'.trans hmid.symm, hlen⟩

/-- A one-bit field, by its bit. -/
theorem bitField_one (v : Word) (lo : Nat) : bitField v lo 1 = BitVec.ofBool (v.getLsbD lo) := by
  refine BitVec.eq_of_getElem_eq fun i hi => ?_
  obtain rfl : i = 0 := by omega
  simp [bitField]

theorem opWord_ackPol_of_fields {v : Word} {op : BitVec 4} (hop : opcodeOf v = op.toNat) (hhigh : bitField v 9 19 = 0)
    (hlow : bitField v 0 8 = 0) : opWord op (ackPolBits (ackPolOfBit (v.getLsbD 8))) = v := by
  have hbits : ∀ b : Bool, let w := ackPolBits (ackPolOfBit b)
      bitField w 28 4 = 0 ∧ bitField w 9 19 = 0 ∧ bitField w 8 1 = BitVec.ofBool b ∧ bitField w 0 8 = 0 := by decide
  obtain ⟨hclear, hhigh', hbit, hlow'⟩ := hbits (v.getLsbD 8)
  exact opWord_eq_of_fields [(9, 19), (8, 1), (0, 8)] (by decide) (by decide) hop hclear
    ⟨hhigh'.trans hhigh.symm, hbit.trans (bitField_one v 8).symm, hlow'.trans hlow.symm⟩

theorem opWord_convKind_of_fields {v : Word} {op : BitVec 4} (hop : opcodeOf v = op.toNat) (h : bitField v 1 27 = 0) :
    opWord op (convKindBits (convKindOfBit (v.getLsbD 0))) = v := by
  have hbits : ∀ b : Bool, let w := convKindBits (convKindOfBit b)
      bitField w 28 4 = 0 ∧ bitField w 1 27 = 0 ∧ bitField w 0 1 = BitVec.ofBool b := by decide
  obtain ⟨hclear, h', hbit⟩ := hbits (v.getLsbD 0)
  exact opWord_eq_of_fields [(1, 27), (0, 1)] (by decide) (by decide) hop hclear
    ⟨h'.trans h.symm, hbit.trans (bitField_one v 0).symm⟩

/-! ### A word that decodes is the encoding of what it decodes to -/

theorem acceptIf_eq_ok_iff {reservedZero : Bool} {i j : Instr} :
    acceptIf reservedZero i = .ok j ↔ reservedZero = true ∧ i = j := by
  cases reservedZero <;> simp [acceptIf]

theorem encode_of_decodeCommand {v : Word} {i : Instr} (h : decodeCommand v = .ok i) : encode i = .cmd32 v := by
  unfold decodeCommand at h
  split at h
  case h_13 => cases h
  all_goals
    rename_i hop
    obtain ⟨hreserved, rfl⟩ := acceptIf_eq_ok_iff.mp h
    simp only [Bool.and_eq_true, beq_iff_eq] at hreserved
    refine congrArg CodeWord.cmd32 ?_
  case h_4 => exact opWord_byte_of_fields hop hreserved
  case h_5 =>
    obtain ⟨hhigh, hlow⟩ := hreserved
    exact opWord_ackPol_of_fields hop hhigh hlow
  case h_6 | h_7 =>
    obtain ⟨hhigh, hmid⟩ := hreserved
    exact opWord_framed_of_fields hop hhigh hmid
  case h_11 => exact opWord_convKind_of_fields hop hreserved
  all_goals exact opWord_zero_of_clear hop hreserved

theorem encode_of_decodeAddress {b : Byte} {i : Instr} (h : decodeAddress b = .ok i) : encode i = .addr8 b := by
  simp only [decodeAddress, classifyAddress] at h
  split_ifs at h with hw hr
  · cases h
    rw [hw]; rfl
  · cases h
    rw [hr]; rfl

/-- The three bytes of a frame value make it up (R119). -/
theorem frameValue_frameBytes (w : BitVec 24) : frameValue (frameBytes w) = w := by
  refine BitVec.eq_of_getElem_eq fun i hi => ?_
  interval_cases i <;> simp [frameValue, frameBytes, bitField]

theorem encode_of_decodeFrame {w : BitVec 24} {i : Instr} (h : decodeFrame w = .ok i) : encode i = .cmd24 w := by
  rw [← frameValue_frameBytes w]
  simp only [decodeFrame, classifyFrame] at h
  split_ifs at h with hcal htrig
  · cases h
    rw [hcal]; rfl
  · cases h
    rw [htrig]; rfl

theorem encode_of_decode {w : CodeWord} {i : Instr} (h : decode w = .ok i) : encode i = w := by
  cases w with
  | cmd32 v => exact encode_of_decodeCommand h
  | addr8 b => exact encode_of_decodeAddress h
  | cmd24 w => exact encode_of_decodeFrame h

/-! ### The encoding of an instruction decodes to it -/

theorem decode_encode (i : Instr) : decode (encode i) = .ok i := by
  cases i with
  | wrb b => exact decode_commandWord_wrb b
  | fwr a n => exact decode_commandWord_fwr a n
  | frd a n => exact decode_commandWord_frd a n
  | rdb pol => cases pol <;> rfl
  | conv kind => cases kind <;> rfl
  | nop | start | stop | begin | measure | decode | clrerr | emuAddrW | emuAddrR | emuCal | emuTrig => rfl

/-- Settles O1: the decoder's checks pin every field of the word, and every encoding passes them. -/
theorem decodeAndEncodeAgree : Obligations.DecodeAndEncodeAgree := by
  unfold Obligations.DecodeAndEncodeAgree
  intro w i
  constructor
  · exact encode_of_decode
  · rintro rfl
    exact decode_encode i

/-- Settles O3: each word is its instruction's encoding. -/
theorem writtenOutWordsDecode : Obligations.WrittenOutWordsDecode := by
  unfold Obligations.WrittenOutWordsDecode
  exact ⟨decode_encode .nop, decode_encode .start, decode_encode .stop, decode_encode (.wrb 0x70),
    decode_encode (.rdb .nack), decode_encode (.fwr 0x38 3), decode_encode (.frd 0x38 6), decode_encode .begin,
    decode_encode .measure, decode_encode .decode, decode_encode (.conv .temperature), decode_encode .clrerr,
    decode_encode .emuAddrW, decode_encode .emuAddrR, decode_encode .emuCal, decode_encode .emuTrig⟩

end Sys2Proof.Machine
end

section
/-!
PROOFS. The step (20_memory.md R88, 30_encoding.md R115): what one host action does, said once with its command's work, and
what follows for progress, for the commands that pass their checks and for protocol failures (60_exceptions.md R290).
-/

namespace Sys2Proof.Machine

/-! ### What a step does -/

/-- The state with the host's next action taken off its list (R88). -/
def State.popHost (s : State) : State := { s with host := s.host.tail }

/-- What a step does, to the state with the host's action taken off (R85, R86, R115, R291, R320, R321). A command's word
stands in the action. -/
inductive StepEffect (s t : State) : Prop
  | waited (h : t = s.popHost)
  | read (v : Word) (h : t = { s.popHost with result := some (.value v) })
  | raised (c : ErrorCode) (off : Offset) (h : t = s.popHost.raise c off)
  | stored (r : Reg) (v : Word) (hw : isReadOnly r = false) (hc : r ≠ .cmd) (h : t = s.popHost.storeReg r v)
  | completed (i : Instr) (u : State) (rest : List HostAction) (hi : i.isHostCommand = true)
      (hs : s.host = .regWrite 0x00 (commandWord i) :: rest) (w : Worked i s.popHost u) (h : t = u.complete i)
  | hangs (i : Instr) (u : State) (rest : List HostAction) (hi : i.isHostCommand = true)
      (hs : s.host = .regWrite 0x00 (commandWord i) :: rest) (w : Worked i s.popHost u) (h : t = u.hang)
  | reset (rest : List HostAction) (hs : s.host = .reset :: rest) (h : t = s.popHost.applyReset)

theorem State.popHost_of_host {s : State} {a : HostAction} {rest : List HostAction} (hs : s.host = a :: rest) :
    s.popHost = { s with host := rest } := by
  rw [State.popHost, hs, List.tail_cons]

theorem State.regRead_effect (s : State) (off : Offset) :
    (∃ v, s.regRead off = { s with result := some (.value v) }) ∨ s.regRead off = s.raise .unmapped off := by
  cases hr : regAt off with
  | none => exact .inr (by simp only [State.regRead, hr])
  | some r => exact .inl ⟨_, s.regRead_register hr⟩

/-- A host write changes CONFIG, RAW_IN, DATA or FRAME and the port's answer (R86). -/
theorem State.storeReg_frame (s : State) (r : Reg) (v : Word) : s.storeReg r v =
    { s with
      busEn := (s.storeReg r v).busEn, rawIn := (s.storeReg r v).rawIn, data := (s.storeReg r v).data
      frame := (s.storeReg r v).frame, result := (s.storeReg r v).result } := by
  cases r <;> rfl

/-- The word of a command that decodes is the command's own (R112, R115). -/
theorem eq_commandWord_of_decode {v : Word} {i : Instr} (h : decode (.cmd32 v) = .ok i) : v = commandWord i := by
  rw [commandWord, encode_of_decode h, CodeWord.bits]

theorem step_effect {s t : State} (h : step s = .next t) : StepEffect s t := by
  rcases step_cases s with ⟨-, hf⟩ | ⟨-, hs, hn⟩ | ⟨a, rest, -, hs, hcase⟩
  · simp [hf] at h
  · cases hn.symm.trans h
    refine .waited ?_
    rw [State.popHost, hs, List.tail_nil, ← hs]
  · rw [← State.popHost_of_host hs] at hcase
    rcases hcase with ⟨off, rfl, hn⟩ | ⟨off, v, c, rfl, hn⟩ | ⟨off, v, r, rfl, -, hw, hc, hn⟩ |
      ⟨off, v, i, rfl, hr, hd, hn⟩ | ⟨rfl, hn⟩ | ⟨rfl, hn⟩ <;> have hn := hn.symm.trans h
    · cases hn
      rcases s.popHost.regRead_effect off with ⟨v, hv⟩ | hv
      · exact .read v hv
      · exact .raised _ off hv
    · cases hn
      exact .raised c off rfl
    · cases hn
      exact .stored r v hw hc rfl
    · have hi := decode_isHostCommand hd
      rw [eq_cmdOffset_of_regAt hr, eq_commandWord_of_decode hd] at hs
      cases exec_cases hi s.popHost with
      | raised c he =>
        cases he.symm.trans hn
        exact .raised c cmdOffset rfl
      | completed u w he =>
        cases he.symm.trans hn
        exact .completed i u rest hi hs w rfl
      | hangs u w he =>
        cases he.symm.trans hn
        exact .hangs i u rest hi hs w rfl
    · cases hn
      exact .waited rfl
    · cases hn
      exact .reset rest hs rfl

/-! ### Commands past their checks -/

/-- The three ends of the framed write of BEGIN and MEASURE and the delay after it (R200, R203, R205). -/
theorem commandWrite_cases (s : State) (bs : List Byte) :
    (frameWrite s slaveAddr7 bs).outcome ≠ .ack ∨
    ((frameWrite s slaveAddr7 bs).outcome = .ack ∧
      ∃ rest, (frameWrite s slaveAddr7 bs).state.host = .answerDelay :: rest) ∨
    ((frameWrite s slaveAddr7 bs).outcome = .ack ∧
      (∀ rest, (frameWrite s slaveAddr7 bs).state.host ≠ .answerDelay :: rest) ∧
      ∀ rest, s.host ≠ .answerDelay :: rest) := by
  have hhost := (frameWrite_frame s slaveAddr7 bs).host
  by_cases hack : (frameWrite s slaveAddr7 bs).outcome = .ack
  · by_cases hanswer : ∃ rest, (frameWrite s slaveAddr7 bs).state.host = .answerDelay :: rest
    · exact .inr (.inl ⟨hack, hanswer⟩)
    · rw [not_exists] at hanswer
      exact .inr (.inr ⟨hack, hanswer, hhost ▸ hanswer⟩)
  · exact .inl hack

/-- What a command that passes its checks answers: Ok, or nothing in the hang of an unanswered delay (R115, R329). -/
theorem exec_answer_of_passesChecks {i : Instr} {s : State} (h : PassesChecks i s) : ∃ t, exec i s = .next t ∧
    (t.result = some .ok ∨
      t.result = none ∧ (i = .begin ∨ i = .measure) ∧ ∀ rest, s.host ≠ .answerDelay :: rest) := by
  obtain ⟨hi, hb, ho⟩ := h
  cases i with
  | nop | decode | clrerr => exact ⟨_, rfl, .inl rfl⟩
  | conv kind => cases kind <;> exact ⟨_, rfl, .inl rfl⟩
  | start => exact ⟨_, execStart_enabled (hb rfl), .inl rfl⟩
  | stop => exact ⟨_, execStop_enabled (hb rfl), .inl rfl⟩
  | wrb b => exact ⟨_, execWrb_passed b (hb rfl) (ho rfl), .inl rfl⟩
  | rdb pol => exact ⟨_, execRdb_passed pol (hb rfl) (ho rfl), .inl rfl⟩
  | fwr a n => exact ⟨_, execFwr_enabled a n (hb rfl) rfl, .inl rfl⟩
  | frd a n => exact ⟨_, execFrd_enabled a n (hb rfl) rfl, .inl rfl⟩
  | begin =>
    rcases commandWrite_cases s calCmd with hfailed | ⟨hack, rest, hanswer⟩ | ⟨hack, hnever, hnever'⟩
    · exact ⟨_, execBegin_failed (hb rfl) rfl hfailed, .inl rfl⟩
    · exact ⟨_, execBegin_answered (hb rfl) rfl hack hanswer, .inl rfl⟩
    · exact ⟨_, execBegin_never (hb rfl) rfl hack hnever, .inr ⟨rfl, .inl rfl, hnever'⟩⟩
  | measure =>
    rcases commandWrite_cases s trigCmd with hfailed | ⟨hack, rest, hanswer⟩ | ⟨hack, hnever, hnever'⟩
    · exact ⟨_, execMeasure_failed (hb rfl) rfl hfailed, .inl rfl⟩
    · exact ⟨_, execMeasure_answered (hb rfl) rfl hack hanswer, .inl rfl⟩
    · exact ⟨_, execMeasure_never (hb rfl) rfl hack hnever, .inr ⟨rfl, .inr rfl, hnever'⟩⟩
  | emuAddrW | emuAddrR | emuCal | emuTrig => cases hi

/-- A command that passes its checks raises nothing: it works and completes, or it works and hangs (R115, R290). -/
theorem exec_of_passesChecks {i : Instr} {s : State} (h : PassesChecks i s) :
    (∃ u, Worked i s u ∧ exec i s = .next (u.complete i)) ∨
    (i = .begin ∨ i = .measure) ∧ (∀ rest, s.host ≠ .answerDelay :: rest) ∧
      ∃ u, Worked i s u ∧ exec i s = .next u.hang := by
  have hi : i.isHostCommand = true := h.1
  obtain ⟨t, ht, hanswer⟩ := exec_answer_of_passesChecks h
  cases exec_cases hi s with
  | raised c hc =>
    cases hc.symm.trans ht
    simp at hanswer
  | completed u w hu => exact .inl ⟨u, w, hu⟩
  | hangs u w hu =>
    cases hu.symm.trans ht
    obtain ⟨hcommand, hnever⟩ : (i = .begin ∨ i = .measure) ∧ ∀ rest, s.host ≠ .answerDelay :: rest := by
      simpa using hanswer
    exact .inr ⟨hcommand, hnever, u, w, hu⟩

/-- A host command is encoded as its word (R112). -/
theorem encode_hostCommand {i : Instr} (hi : i.isHostCommand = true) : encode i = .cmd32 (commandWord i) := by
  cases i with
  | emuAddrW | emuAddrR | emuCal | emuTrig => cases hi
  | _ => rfl

/-- Settles O46: only an unanswered delay keeps a command that passes its checks from completing. -/
theorem everyCommandThatPassesItsChecksCompletes : Obligations.EveryCommandThatPassesItsChecksCompletes := by
  unfold Obligations.EveryCommandThatPassesItsChecksCompletes
  intro i s h hanswer
  rcases exec_of_passesChecks h with ⟨u, w, hu⟩ | ⟨hi, hnever, -⟩
  · exact ⟨_, hu, encode_hostCommand h.1, rfl, w.hung, w.errorRecord⟩
  · obtain ⟨rest, hrest⟩ := hanswer hi
    exact absurd hrest (hnever rest)

/-- Only CLRERR's work changes ERR (R38, R281). -/
theorem Worked.err_eq {i : Instr} {s u : State} (w : Worked i s u) (hi : i ≠ .clrerr) : u.err = s.err := by
  rw [w.err, if_neg hi]

/-- The work of a command written to CMD changes ERR only as CLRERR, whose word is 0xB0000000 (R281). -/
theorem Worked.err_of_host {i : Instr} {s u : State} {rest rest' : List HostAction} {off : Offset} {v : Word}
    (w : Worked i s.popHost u) (hs : s.host = .regWrite 0x00 (commandWord i) :: rest)
    (hs' : s.host = .regRead off :: rest' ∨ s.host = .regWrite off v :: rest') :
    u.err = s.err ∨ (u.err = none ∧ s.host = .regWrite 0x00 0xB0000000 :: rest') := by
  obtain rfl : rest = rest' := by
    rcases hs' with hs' | hs' <;> cases hs.symm.trans hs'
    rfl
  by_cases hi : i = .clrerr
  · subst hi
    exact .inr ⟨w.err, hs⟩
  · exact .inl (w.err_eq hi)

/-- Settles O15: past its checks a command raises nothing, and of what a step does only the error response appends to the
record, and only CLRERR's work and the reset clear ERR. -/
theorem protocolFailuresAreNoErrors : Obligations.ProtocolFailuresAreNoErrors := by
  unfold Obligations.ProtocolFailuresAreNoErrors
  refine ⟨fun i s t hp h => ?_, fun s t rest off v _ hs h hno => ?_⟩
  · rcases exec_of_passesChecks hp with ⟨u, w, hu⟩ | ⟨hi, -, u, w, hu⟩ <;> cases hu.symm.trans h
    · exact ⟨.inl rfl, w.errorRecord, w.err_eq⟩
    · exact ⟨.inr ⟨rfl, rfl, hi⟩, w.errorRecord, w.err_eq⟩
  · cases step_effect h with
    | waited ht | read v ht =>
      subst ht
      exact ⟨rfl, .inl rfl⟩
    | raised c off ht => exact absurd (congrArg State.result ht) (hno c)
    | stored r v hw hc ht =>
      rw [State.storeReg_frame] at ht
      subst ht
      exact ⟨rfl, .inl rfl⟩
    | completed i u rest' hi hs' w ht | hangs i u rest' hi hs' w ht =>
      subst ht
      exact ⟨w.errorRecord, w.err_of_host hs' hs⟩
    | reset rest' hs' ht => rcases hs with hs | hs <;> cases hs.symm.trans hs'

/-! ### Progress -/

theorem exists_next_of_isHostCommand {i : Instr} (hi : i.isHostCommand = true) (s : State) : ∃ t, exec i s = .next t := by
  cases exec_cases hi s with
  | raised c h | completed u w h | hangs u w h => exact ⟨_, h⟩

/-- Settles O47: every way a step can go but the hang has a next state, and an idle host's is the same one. -/
theorem stepStopsOnlyInAHang : Obligations.StepStopsOnlyInAHang := by
  unfold Obligations.StepStopsOnlyInAHang
  refine fun s => ⟨fun hrun => ?_, fun hh => by rw [step, if_pos hh], fun hrun hs => ?_⟩
  · rcases step_cases s with ⟨hh, -⟩ | ⟨-, -, hn⟩ | ⟨a, rest, -, -, hcase⟩
    · cases hrun.symm.trans hh
    · exact ⟨s, hn⟩
    · rcases hcase with ⟨_, -, hn⟩ | ⟨_, _, _, -, hn⟩ | ⟨_, _, _, -, -, -, -, hn⟩ | ⟨_, _, i, -, -, hd, hn⟩ |
        ⟨-, hn⟩ | ⟨-, hn⟩
      · exact ⟨_, hn⟩
      · exact ⟨_, hn⟩
      · exact ⟨_, hn⟩
      · obtain ⟨t, ht⟩ := exists_next_of_isHostCommand (decode_isHostCommand hd) { s with host := rest }
        exact ⟨t, hn.trans ht⟩
      · exact ⟨_, hn⟩
      · exact ⟨_, hn⟩
  · simp [step, hrun, hs]

/-- Settles O44: the host's write of CMD executes the word. -/
theorem stepRunsTheDecodedCommand : Obligations.StepRunsTheDecodedCommand := by
  unfold Obligations.StepRunsTheDecodedCommand
  intro s v i rest hrun hs hd
  exact (step_cons hrun hs).trans (regWrite_of_decode { s with host := rest } hd)

/-! ### What a step shows on the bus -/

/-- A step is the reset input, or its log entries are the exchanges that the emulator reacted to and that BUS_OPEN follows
(R36, R59, R60). -/
theorem step_trace {s t : State} (h : step s = .next t) :
    (∃ rest, s.host = .reset :: rest ∧ t = s.popHost.applyReset) ∨
    ∃ new, BusTrace s t new ∧ t.busOpen = new.foldl openAfter s.busOpen := by
  have hquiet : BusTrace s s.popHost [] := (BusTrace.refl s).congr rfl rfl rfl
  have hwork {i : Instr} {u : State} (w : Worked i s.popHost u) :
      ∃ new, BusTrace s u new ∧ u.busOpen = new.foldl openAfter s.busOpen := by
    obtain ⟨new, htrace, hopen⟩ := w.trace
    exact ⟨new, hquiet.trans htrace, hopen⟩
  cases step_effect h with
  | waited ht | read v ht | raised c off ht =>
    subst ht
    exact .inr ⟨[], hquiet.congr rfl rfl rfl, rfl⟩
  | stored r v hw hc ht =>
    rw [State.storeReg_frame] at ht
    subst ht
    exact .inr ⟨[], hquiet.congr rfl rfl rfl, rfl⟩
  | completed i u rest hi hs w ht =>
    obtain ⟨new, htrace, hopen⟩ := hwork w
    subst ht
    exact .inr ⟨new, htrace.congr rfl rfl rfl, hopen⟩
  | hangs i u rest hi hs w ht =>
    obtain ⟨new, htrace, hopen⟩ := hwork w
    subst ht
    exact .inr ⟨new, htrace.congr rfl rfl rfl, hopen⟩
  | reset rest hs ht => exact .inl ⟨rest, hs, ht⟩

end Sys2Proof.Machine
end

section
/-!
PROOFS. The whole-machine rules (10_state.md sections 2 to 4, 44_slave_emulator.md R259, R260): the log and the emulator as
`step_trace` tells them, and the invariant of reachable states, kept by each effect of a step.
-/

namespace Sys2Proof.Machine

/-! ### The log and the emulator -/

/-- Settles O51: the entries are the step's trace, or the one Reset. -/
theorem logGrowsAndTheEmulatorNeverFails : Obligations.LogGrowsAndTheEmulatorNeverFails := by
  unfold Obligations.LogGrowsAndTheEmulatorNeverFails
  intro s t h
  rcases step_trace h with ⟨rest, -, rfl⟩ | ⟨new, htrace, -⟩
  · exact ⟨[.reset], rfl, rfl, fun _ => by simp [Event.isFailure]⟩
  · exact ⟨new, htrace.log, htrace.params, htrace.replies⟩

theorem Emulator.replay_append (log new : List Event) :
    Emulator.replay (log ++ new) = new.foldl Emulator.react (Emulator.replay log) :=
  List.foldl_append

theorem State.emulatorFollowsLog_emulator {s : State} (he : s.params.endpoint = .emulator) :
    s.EmulatorFollowsLog ↔ s.emu = Emulator.replay s.log := by
  rw [State.EmulatorFollowsLog, he]

theorem State.emulatorFollowsLog_external {s : State} (he : s.params.endpoint = .external) :
    s.EmulatorFollowsLog ↔ s.emu = Emulator.reset := by
  rw [State.EmulatorFollowsLog, he]

theorem State.resetWith_emulatorFollowsLog (p : Params) : (State.resetWith p).EmulatorFollowsLog := by
  cases he : p.endpoint with
  | emulator => exact (State.emulatorFollowsLog_emulator he).mpr rfl
  | external => exact (State.emulatorFollowsLog_external he).mpr rfl

/-- The Reset entry makes the emulator anew, as the reset input does (R320). -/
theorem State.applyReset_emulatorFollowsLog (s : State) : s.applyReset.EmulatorFollowsLog := by
  cases he : s.params.endpoint with
  | emulator =>
    refine (State.emulatorFollowsLog_emulator (s := s.applyReset) he).mpr ?_
    rw [State.applyReset_log, Emulator.replay_append]
    rfl
  | external => exact (State.emulatorFollowsLog_external (s := s.applyReset) he).mpr rfl

/-- An emulator that replays the log before a trace replays the log after it. -/
theorem BusTrace.emulatorFollowsLog {s t : State} {new : List Event} (h : BusTrace s t new)
    (hs : s.EmulatorFollowsLog) : t.EmulatorFollowsLog := by
  cases he : s.params.endpoint with
  | emulator =>
    rw [State.emulatorFollowsLog_emulator he] at hs
    rw [State.emulatorFollowsLog_emulator (h.params ▸ he), h.log, Emulator.replay_append, ← hs, h.emulator he]
  | external =>
    rw [State.emulatorFollowsLog_external he] at hs
    rw [State.emulatorFollowsLog_external (h.params ▸ he), h.external he, hs]

/-- Settles O50: the reset makes the emulator anew and logs it, and otherwise the emulator reacts to the step's trace. -/
theorem emulatorFollowsTheLog : Obligations.EmulatorFollowsTheLog := by
  unfold Obligations.EmulatorFollowsTheLog
  refine ⟨State.resetWith_emulatorFollowsLog, fun s t hs h => ?_⟩
  rcases step_trace h with ⟨rest, -, rfl⟩ | ⟨new, htrace, -⟩
  · exact State.applyReset_emulatorFollowsLog _
  · exact htrace.emulatorFollowsLog hs

/-! ### The sensor flags -/

/-- Both sensor flags, where set, stay set (R260). -/
structure Emulator.KeepsFlags (e e' : Emulator) : Prop where
  calibrated : e.calibrated = true → e'.calibrated = true
  measTriggered : e.measTriggered = true → e'.measTriggered = true

theorem Emulator.react_keepsFlags (e : Emulator) {ev : Event} (h : ev ≠ .reset) : e.KeepsFlags (e.react ev) := by
  cases ev with
  | start | stop | delay ms => exact ⟨id, id⟩
  | write b r => exact ⟨e.onWrite_keeps_calibrated b, e.onWrite_keeps_measTriggered b⟩
  | read pol r =>
    rw [Emulator.react, Emulator.onRead_frame]
    exact ⟨id, id⟩
  | reset => exact absurd rfl h

theorem Emulator.foldl_react_keepsFlags (e : Emulator) {new : List Event} (h : Event.reset ∉ new) :
    e.KeepsFlags (new.foldl Emulator.react e) := by
  induction new generalizing e with
  | nil => exact ⟨id, id⟩
  | cons ev new ih =>
    obtain ⟨hev, hnew⟩ := List.ne_and_not_mem_of_not_mem_cons h
    have hfirst := e.react_keepsFlags hev.symm
    have hrest := ih (e.react ev) hnew
    exact ⟨hrest.calibrated ∘ hfirst.calibrated, hrest.measTriggered ∘ hfirst.measTriggered⟩

theorem BusTrace.keepsFlags {s t : State} {new : List Event} (h : BusTrace s t new) : s.emu.KeepsFlags t.emu := by
  cases he : s.params.endpoint with
  | emulator =>
    rw [h.emulator he]
    exact s.emu.foldl_react_keepsFlags h.noReset
  | external =>
    rw [h.external he]
    exact ⟨id, id⟩

/-- Settles O52: only Reset clears a flag, a trace has none, and with an external endpoint a trace moves no flag. -/
theorem sensorFlagsPersist : Obligations.SensorFlagsPersist := by
  unfold Obligations.SensorFlagsPersist
  intro s t h
  rcases step_trace h with ⟨rest, hs, rfl⟩ | ⟨new, htrace, -⟩
  · exact ⟨fun hno => absurd hs (hno rest), fun _ => ⟨nofun, nofun⟩⟩
  · exact ⟨fun _ => ⟨htrace.keepsFlags.calibrated, htrace.keepsFlags.measTriggered⟩,
      fun he => by rw [htrace.external he]; exact ⟨id, id⟩⟩

/-! ### The invariant of reachable states -/

/-- The word of a host command is legal in CMD (R33, R112). -/
theorem commandWord_wellFormed {i : Instr} (hi : i.isHostCommand = true) :
    (CodeWord.cmd32 (commandWord i)).wellFormed = true := by
  have hdecodes : decode (.cmd32 (commandWord i)) = .ok i := encode_hostCommand hi ▸ decode_encode i
  obtain ⟨r, hr, hm⟩ := (exists_decode_ok_iff_row _).mp ⟨i, hdecodes⟩
  exact List.any_eq_true.mpr ⟨r, hr, beq_iff_eq.mpr hm⟩

theorem Emulator.react_inv {e : Emulator} (ev : Event) (h : e.Inv) : (e.react ev).Inv := by
  cases ev with
  | start => exact Emulator.resetTransaction_inv true h
  | stop => exact Emulator.resetTransaction_inv false h
  | write b r => exact Emulator.onWrite_inv b h
  | read pol r => exact Emulator.onRead_inv pol h
  | delay ms => exact h
  | reset => exact ⟨nofun, nofun, nofun, nofun⟩

theorem Emulator.foldl_react_inv {e : Emulator} (new : List Event) (h : e.Inv) : (new.foldl Emulator.react e).Inv := by
  induction new generalizing e with
  | nil => exact h
  | cons ev new ih => exact ih (Emulator.react_inv ev h)

theorem BusTrace.emulator_inv {s t : State} {new : List Event} (h : BusTrace s t new) (hs : s.emu.Inv) : t.emu.Inv := by
  cases he : s.params.endpoint with
  | emulator => exact h.emulator he ▸ Emulator.foldl_react_inv new hs
  | external => exact h.external he ▸ hs

theorem State.resetWith_inv (p : Params) : (State.resetWith p).Inv where
  emulator := ⟨nofun, nofun, nofun, nofun⟩
  bus_available := nofun
  cmd_legal := commandWord_wellFormed (i := .nop) rfl
  err_recorded := nofun
  bus_open := rfl

/-- The reset input closes the transaction in the log as in the register (R320, R322). -/
theorem State.applyReset_inv (s : State) : s.applyReset.Inv where
  emulator := (State.resetWith_inv s.params).emulator
  bus_available := nofun
  cmd_legal := (State.resetWith_inv s.params).cmd_legal
  err_recorded := nofun
  bus_open := by
    rw [State.applyReset_log, busOpenOf, List.foldl_append]
    rfl

/-- The error response records the error that ERR then shows, if it showed none (R38, R291). -/
theorem State.Inv.raise {s : State} (h : s.Inv) (c : ErrorCode) (off : Offset) : (s.raise c off).Inv where
  emulator := h.emulator
  bus_available := h.bus_available
  cmd_legal := h.cmd_legal
  err_recorded d hd := by
    cases herr : s.err with
    | none =>
      obtain rfl : c = d := by simpa [firstError, herr] using hd
      exact ⟨off, by simp⟩
    | some c' =>
      obtain rfl : c' = d := by simpa [firstError, herr] using hd
      obtain ⟨off', hmem⟩ := h.err_recorded c' herr
      exact ⟨off', by simp [hmem]⟩
  bus_open := h.bus_open

/-- A host write sets BUS_EN only with AVAIL, and touches no other field of the invariant (R41, R86). -/
theorem State.Inv.storeReg {s : State} (h : s.Inv) (r : Reg) (v : Word) : (s.storeReg r v).Inv := by
  cases r with
  | config => exact ⟨h.emulator, fun hb => (Bool.and_eq_true_iff.mp hb).2, h.cmd_legal, h.err_recorded, h.bus_open⟩
  | rawIn | data i | frame i => exact ⟨h.emulator, h.bus_available, h.cmd_legal, h.err_recorded, h.bus_open⟩
  | cmd | status | rxb | ahtStatus | rawH | rawT | hum | temp | emuDbg | emuCmdbuf => exact h

/-- A command's work keeps the invariant: the emulator and BUS_OPEN go with what it logs. -/
theorem State.Inv.worked {i : Instr} {s u : State} (h : s.Inv) (w : Worked i s u) : u.Inv := by
  obtain ⟨new, htrace, hopen⟩ := w.trace
  refine ⟨htrace.emulator_inv h.emulator, ?_, w.cmd ▸ h.cmd_legal, fun c hc => ?_, ?_⟩
  · rw [w.busEn, w.params]
    exact h.bus_available
  · rw [w.errorRecord]
    rw [w.err] at hc
    split_ifs at hc
    exact h.err_recorded c hc
  · rw [hopen, h.bus_open, htrace.log, busOpenOf, busOpenOf, List.foldl_append]

theorem State.Inv.complete {i : Instr} {u : State} (h : u.Inv) (hi : i.isHostCommand = true) : (u.complete i).Inv :=
  ⟨h.emulator, h.bus_available, commandWord_wellFormed hi, h.err_recorded, h.bus_open⟩

/-- The invariant does not speak of the host's actions, the port's answer or the hang. -/
theorem State.Inv.congr {s t : State} (h : s.Inv)
    (ht : t = { s with host := t.host, result := t.result, hung := t.hung }) : t.Inv := by
  rw [ht]
  exact ⟨h.emulator, h.bus_available, h.cmd_legal, h.err_recorded, h.bus_open⟩

/-- Settles O48: each effect of a step keeps the invariant. -/
theorem stepKeepsTheInvariant : Obligations.StepKeepsTheInvariant := by
  unfold Obligations.StepKeepsTheInvariant
  intro s t hinv h
  have hpop : s.popHost.Inv := hinv.congr rfl
  cases step_effect h with
  | waited ht => exact ht ▸ hpop
  | read v ht =>
    subst ht
    exact hpop.congr rfl
  | raised c off ht => exact ht ▸ hpop.raise c off
  | stored r v hw hc ht => exact ht ▸ hpop.storeReg r v
  | completed i u rest hi hs w ht => exact ht ▸ (hpop.worked w).complete hi
  | hangs i u rest hi hs w ht =>
    subst ht
    exact (hpop.worked w).congr rfl
  | reset rest hs ht => exact ht ▸ s.popHost.applyReset_inv

/-- Settles O49: every register the invariant speaks of is 0 at reset and both lists are empty. -/
theorem invariantHoldsAtReset : Obligations.InvariantHoldsAtReset := by
  unfold Obligations.InvariantHoldsAtReset
  exact State.resetWith_inv

end Sys2Proof.Machine
end

section
/-!
PROOFS. The hang of an unanswered delay (42_aht20_protocol.md R200, R329), and who writes which register (10_state.md R34,
R42 to R49): each command's next state is the one before it but for the registers the map names it as a writer of.
-/

namespace Sys2Proof.Machine

/-! ### The hang -/

/-- BEGIN whose command is ACKed and whose delay is not answered stays in the state in which it would read (R329). -/
theorem exec_begin_never {s t : State} (hb : s.busEn = true) (hh : ∀ rest, s.host ≠ .answerDelay :: rest)
    (ht : SendsCommand s calCmd s.params.delayBeginMs s.host t) : exec .begin s = .next t.hang := by
  obtain ⟨_, rfl, hack, rfl⟩ := ht
  have hhost := (frameWrite_frame s slaveAddr7 calCmd).host
  refine (execBegin_never hb rfl hack (hhost ▸ hh)).trans ?_
  rw [← hhost]
  rfl

/-- MEASURE whose command is ACKed and whose delay is not answered stays in the state in which it would read (R329). -/
theorem exec_measure_never {s t : State} (hb : s.busEn = true) (hh : ∀ rest, s.host ≠ .answerDelay :: rest)
    (ht : SendsCommand s trigCmd s.params.delayMeasMs s.host t) : exec .measure s = .next t.hang := by
  obtain ⟨_, rfl, hack, rfl⟩ := ht
  have hhost := (frameWrite_frame s slaveAddr7 trigCmd).host
  refine (execMeasure_never hb rfl hack (hhost ▸ hh)).trans ?_
  rw [← hhost]
  rfl

/-- Settles O28: both endpoints ACK the command, and the state in which the delay is asked for is the hung one. -/
theorem unansweredDelayHangsTheBlock : Obligations.UnansweredDelayHangsTheBlock := by
  unfold Obligations.UnansweredDelayHangsTheBlock
  refine ⟨fun s hh => by rw [step, if_pos hh], fun s hb hh => ⟨fun he => ?_, fun he w hw => ?_⟩⟩
  · have hcal : betweenBytes (s.emu.withCommand calCmd) false =
        { betweenBytes s.emu false with calibrated := true } := by
      simp [Emulator.withCommand, betweenBytes, calCmd]
    have htrig : betweenBytes (s.emu.withCommand trigCmd) false =
        { betweenBytes s.emu false with measTriggered := s.emu.measTriggered || s.emu.calibrated } := by
      simp [Emulator.withCommand, betweenBytes, trigCmd]
    rw [← hcal, ← htrig]
    exact ⟨exec_begin_never hb hh (sendsCommand_emulator calCmd _ s.host he),
      exec_measure_never hb hh (sendsCommand_emulator trigCmd _ s.host he)⟩
  · exact ⟨exec_begin_never hb hh (sendsCommand_external (bs := calCmd) _ s.host he hw),
      exec_measure_never hb hh (sendsCommand_external (bs := trigCmd) _ s.host he hw)⟩

/-! ### The registers a command writes -/

/-- The state `s` with the registers that `i` writes taken from `t` (R34, R42 to R49). -/
def State.withWritten (s : State) (i : Instr) (t : State) : State :=
  match i with
  | .start | .stop => { s with busOpen := t.busOpen }
  | .wrb _ => { s with outcome := t.outcome }
  | .rdb _ => { s with outcome := t.outcome, rxb := t.rxb }
  | .fwr _ _ => { s with outcome := t.outcome, count := t.count, busOpen := t.busOpen }
  | .frd _ _ => { s with outcome := t.outcome, count := t.count, busOpen := t.busOpen, data := t.data }
  | .begin => { s with
      outcome := t.outcome, count := t.count, busOpen := t.busOpen, ahtResult := t.ahtResult, ahtStatus := t.ahtStatus }
  | .measure => { s with
      outcome := t.outcome, count := t.count, busOpen := t.busOpen, ahtResult := t.ahtResult, frame := t.frame }
  | .decode => { s with rawH := t.rawH, rawT := t.rawT, dcal := t.dcal, hum := t.hum, temp := t.temp }
  | .conv .humidity => { s with hum := t.hum }
  | .conv .temperature => { s with temp := t.temp }
  | .nop | .clrerr | .emuAddrW | .emuAddrR | .emuCal | .emuTrig => s

/-- Every register but CMD and ERR is as it was: nothing else changed but what is no register. -/
def SameRegisters (s t : State) : Prop :=
  t = { s with
    cmd := t.cmd, err := t.err, emu := t.emu, log := t.log, errorRecord := t.errorRecord, host := t.host
    result := t.result, hung := t.hung, oracle := t.oracle }

/-- All that `i` did to the registers from `s` to `t`, but for CMD and ERR, it did to those it writes. -/
def WritesOwn (i : Instr) (s t : State) : Prop := SameRegisters (s.withWritten i t) t

/-- The error response writes no register but ERR (R291). -/
theorem State.raise_writesOwn (i : Instr) (s : State) (c : ErrorCode) (off : Offset) : WritesOwn i s (s.raise c off) := by
  cases i with
  | conv kind => cases kind <;> rfl
  | _ => rfl

/-- A bus exchange writes no register. -/
theorem BusFrame.writesOwn {s t : State} (h : BusFrame s t) (i : Instr) : WritesOwn i s t := by
  obtain ⟨log, emu, oracle, rfl⟩ : ∃ log emu oracle, t = { s with log := log, emu := emu, oracle := oracle } :=
    ⟨_, _, _, h⟩
  cases i with
  | conv kind => cases kind <;> rfl
  | _ => rfl

theorem WritesOwn.trans {i : Instr} {s t u : State} (h : WritesOwn i s t) (k : WritesOwn i t u) : WritesOwn i s u := by
  unfold WritesOwn SameRegisters at *
  cases i with
  | conv kind =>
    cases kind <;>
    · rw [k, h]
      rfl
  | _ =>
    rw [k, h]
    rfl

theorem writesOwn_of_requireBus {i : Instr} {s t : State} {run : State → Host.Outcome State Fault Refusal}
    (h : requireBus s run = .next t) (hrun : s.busEn = true → run s = .next t → WritesOwn i s t) : WritesOwn i s t := by
  unfold requireBus at h
  split_ifs at h with hb
  · exact hrun hb h
  · cases h
    exact s.raise_writesOwn i _ _

theorem writesOwn_of_requireOpen {i : Instr} {s t : State} {run : State → Host.Outcome State Fault Refusal}
    (h : requireOpen s run = .next t) (hrun : run s = .next t → WritesOwn i s t) : WritesOwn i s t := by
  unfold requireOpen at h
  split_ifs at h
  · exact hrun h
  · cases h
    exact s.raise_writesOwn i _ _

theorem State.feedEmulator_sameRegisters (s : State) (bs : List Byte) : SameRegisters s (s.feedEmulator bs) := by
  unfold State.feedEmulator
  split <;> rfl

theorem execBegin_writesOwn {s t : State} (hb : s.busEn = true) (h : execBegin s = .next t) : WritesOwn .begin s t := by
  have hsent := (frameWrite_frame s slaveAddr7 calCmd).writesOwn .begin
  rcases commandWrite_cases s calCmd with hfailed | ⟨hack, rest, hanswer⟩ | ⟨hack, hnever, -⟩
  · cases (execBegin_failed hb rfl hfailed).symm.trans h
    exact hsent.trans rfl
  · cases (execBegin_answered hb rfl hack hanswer).symm.trans h
    rw [beginStatusRead_frame]
    refine (hsent.trans ?_).trans (((frameRead_frame _ slaveAddr7 1).writesOwn .begin).trans rfl)
    rfl
  · cases (execBegin_never hb rfl hack hnever).symm.trans h
    exact hsent.trans rfl

theorem execMeasure_writesOwn {s t : State} (hb : s.busEn = true) (h : execMeasure s = .next t) :
    WritesOwn .measure s t := by
  have hsent := (frameWrite_frame s slaveAddr7 trigCmd).writesOwn .measure
  rcases commandWrite_cases s trigCmd with hfailed | ⟨hack, rest, hanswer⟩ | ⟨hack, hnever, -⟩
  · cases (execMeasure_failed hb rfl hfailed).symm.trans h
    exact hsent.trans rfl
  · cases (execMeasure_answered hb rfl hack hanswer).symm.trans h
    refine (hsent.trans ?_).trans (((frameRead_frame _ slaveAddr7 6).writesOwn .measure).trans rfl)
    rfl
  · cases (execMeasure_never hb rfl hack hnever).symm.trans h
    exact hsent.trans rfl

/-- No instruction writes a register that the map does not name it as a writer of (R34, R42 to R49). -/
theorem exec_writesOwn {i : Instr} {s t : State} (h : exec i s = .next t) : WritesOwn i s t := by
  cases i with
  | nop | decode | clrerr =>
    cases h
    rfl
  | conv kind => cases kind <;> cases h <;> rfl
  | start =>
    simp only [exec, execStart] at h
    refine writesOwn_of_requireBus h fun _ h => ?_
    cases h
    exact (s.busStart_frame.writesOwn .start).trans rfl
  | stop =>
    simp only [exec, execStop] at h
    refine writesOwn_of_requireBus h fun _ h => ?_
    cases h
    exact (s.busStop_frame.writesOwn .stop).trans rfl
  | wrb b =>
    simp only [exec, execWrb] at h
    refine writesOwn_of_requireBus h fun _ h => writesOwn_of_requireOpen h fun h => ?_
    cases h
    exact ((s.busWrite_frame b).writesOwn (.wrb b)).trans rfl
  | rdb pol =>
    simp only [exec, execRdb] at h
    refine writesOwn_of_requireBus h fun _ h => writesOwn_of_requireOpen h fun h => ?_
    cases h
    exact ((s.busRead_frame pol).writesOwn (.rdb pol)).trans rfl
  | fwr a n =>
    simp only [exec, execFwr] at h
    refine writesOwn_of_requireBus h fun _ h => ?_
    cases h
    exact ((frameWrite_frame s a (dataBytes s n)).writesOwn (.fwr a n)).trans rfl
  | frd a n =>
    simp only [exec, execFrd] at h
    refine writesOwn_of_requireBus h fun _ h => ?_
    cases h
    exact ((frameRead_frame s a n.toNat).writesOwn (.frd a n)).trans rfl
  | begin =>
    simp only [exec, execBegin] at h
    exact writesOwn_of_requireBus h fun hb _ => execBegin_writesOwn hb h
  | measure =>
    simp only [exec, execMeasure] at h
    exact writesOwn_of_requireBus h fun hb _ => execMeasure_writesOwn hb h
  | emuAddrW | emuAddrR | emuCal | emuTrig =>
    cases h
    exact s.feedEmulator_sameRegisters _

/-! ### The registers an instruction does not write -/

theorem State.withWritten_rawIn_busEn_params (s : State) (i : Instr) (t : State) :
    (s.withWritten i t).rawIn = s.rawIn ∧ (s.withWritten i t).busEn = s.busEn ∧ (s.withWritten i t).params = s.params := by
  cases i with
  | conv kind => cases kind <;> exact ⟨rfl, rfl, rfl⟩
  | _ => exact ⟨rfl, rfl, rfl⟩

theorem State.withWritten_data (s : State) {i : Instr} (t : State) (hi : ∀ a n, i ≠ .frd a n) :
    (s.withWritten i t).data = s.data := by
  cases i with
  | frd a n => exact absurd rfl (hi a n)
  | conv kind => cases kind <;> rfl
  | _ => rfl

theorem State.withWritten_frame (s : State) {i : Instr} (t : State) (hi : i ≠ .measure) :
    (s.withWritten i t).frame = s.frame := by
  cases i with
  | measure => exact absurd rfl hi
  | conv kind => cases kind <;> rfl
  | _ => rfl

theorem State.withWritten_rxb (s : State) {i : Instr} (t : State) (hi : ∀ p, i ≠ .rdb p) :
    (s.withWritten i t).rxb = s.rxb := by
  cases i with
  | rdb p => exact absurd rfl (hi p)
  | conv kind => cases kind <;> rfl
  | _ => rfl

theorem State.withWritten_ahtStatus (s : State) {i : Instr} (t : State) (hi : i ≠ .begin) :
    (s.withWritten i t).ahtStatus = s.ahtStatus := by
  cases i with
  | begin => exact absurd rfl hi
  | conv kind => cases kind <;> rfl
  | _ => rfl

theorem State.withWritten_ahtResult (s : State) {i : Instr} (t : State) (hb : i ≠ .begin) (hm : i ≠ .measure) :
    (s.withWritten i t).ahtResult = s.ahtResult := by
  cases i with
  | begin => exact absurd rfl hb
  | measure => exact absurd rfl hm
  | conv kind => cases kind <;> rfl
  | _ => rfl

theorem State.withWritten_raw (s : State) {i : Instr} (t : State) (hi : i ≠ .decode) :
    (s.withWritten i t).rawH = s.rawH ∧ (s.withWritten i t).rawT = s.rawT ∧ (s.withWritten i t).dcal = s.dcal := by
  cases i with
  | decode => exact absurd rfl hi
  | conv kind => cases kind <;> exact ⟨rfl, rfl, rfl⟩
  | _ => exact ⟨rfl, rfl, rfl⟩

theorem State.withWritten_hum (s : State) {i : Instr} (t : State) (hd : i ≠ .decode) (hc : i ≠ .conv .humidity) :
    (s.withWritten i t).hum = s.hum := by
  cases i with
  | decode => exact absurd rfl hd
  | conv kind =>
    cases kind with
    | humidity => exact absurd rfl hc
    | temperature => rfl
  | _ => rfl

theorem State.withWritten_temp (s : State) {i : Instr} (t : State) (hd : i ≠ .decode) (hc : i ≠ .conv .temperature) :
    (s.withWritten i t).temp = s.temp := by
  cases i with
  | decode => exact absurd rfl hd
  | conv kind =>
    cases kind with
    | humidity => rfl
    | temperature => exact absurd rfl hc
  | _ => rfl

theorem State.withWritten_count (s : State) {i : Instr} (t : State) (hw : ∀ a n, i ≠ .fwr a n)
    (hr : ∀ a n, i ≠ .frd a n) (hb : i ≠ .begin) (hm : i ≠ .measure) :
    (s.withWritten i t).count = s.count := by
  cases i with
  | fwr a n => exact absurd rfl (hw a n)
  | frd a n => exact absurd rfl (hr a n)
  | begin => exact absurd rfl hb
  | measure => exact absurd rfl hm
  | conv kind => cases kind <;> rfl
  | _ => rfl

theorem State.withWritten_outcome (s : State) {i : Instr} (t : State) (hw : ∀ a n, i ≠ .fwr a n)
    (hr : ∀ a n, i ≠ .frd a n) (hb : i ≠ .begin) (hm : i ≠ .measure)
    (hwrb : ∀ b, i ≠ .wrb b) (hrdb : ∀ p, i ≠ .rdb p) :
    (s.withWritten i t).outcome = s.outcome := by
  cases i with
  | fwr a n => exact absurd rfl (hw a n)
  | frd a n => exact absurd rfl (hr a n)
  | begin => exact absurd rfl hb
  | measure => exact absurd rfl hm
  | wrb b => exact absurd rfl (hwrb b)
  | rdb p => exact absurd rfl (hrdb p)
  | conv kind => cases kind <;> rfl
  | _ => rfl

theorem State.withWritten_busOpen (s : State) {i : Instr} (t : State) (hw : ∀ a n, i ≠ .fwr a n)
    (hr : ∀ a n, i ≠ .frd a n) (hb : i ≠ .begin) (hm : i ≠ .measure)
    (hstart : i ≠ .start) (hstop : i ≠ .stop) :
    (s.withWritten i t).busOpen = s.busOpen := by
  cases i with
  | fwr a n => exact absurd rfl (hw a n)
  | frd a n => exact absurd rfl (hr a n)
  | begin => exact absurd rfl hb
  | measure => exact absurd rfl hm
  | start => exact absurd rfl hstart
  | stop => exact absurd rfl hstop
  | conv kind => cases kind <;> rfl
  | _ => rfl

/-- Settles O54: a register shows what `withWritten` leaves it, which is its old value where `i` is no writer of it. -/
theorem registersAreWrittenOnlyByTheirWriters : Obligations.RegistersAreWrittenOnlyByTheirWriters := by
  unfold Obligations.RegistersAreWrittenOnlyByTheirWriters
  intro i s t h
  have hw : SameRegisters (s.withWritten i t) t := exec_writesOwn h
  obtain ⟨hrawIn, hbusEn, hparams⟩ := s.withWritten_rawIn_busEn_params i t
  refine ⟨(congrArg State.rawIn hw).trans hrawIn, (congrArg State.busEn hw).trans hbusEn,
    (congrArg State.params hw).trans hparams, fun hi => (congrArg State.data hw).trans (s.withWritten_data t hi),
    fun hi => (congrArg State.frame hw).trans (s.withWritten_frame t hi),
    fun hi => (congrArg State.rxb hw).trans (s.withWritten_rxb t hi),
    fun hi => (congrArg State.ahtStatus hw).trans (s.withWritten_ahtStatus t hi),
    fun hb hm => (congrArg State.ahtResult hw).trans (s.withWritten_ahtResult t hb hm), fun hi => ?_,
    fun hd hc => (congrArg State.hum hw).trans (s.withWritten_hum t hd hc),
    fun hd hc => (congrArg State.temp hw).trans (s.withWritten_temp t hd hc),
    fun hfw hfr hb hm => ⟨(congrArg State.count hw).trans (s.withWritten_count t hfw hfr hb hm),
      fun hwrb hrdb => (congrArg State.outcome hw).trans (s.withWritten_outcome t hfw hfr hb hm hwrb hrdb),
      fun hstart hstop => (congrArg State.busOpen hw).trans (s.withWritten_busOpen t hfw hfr hb hm hstart hstop)⟩⟩
  obtain ⟨hrawH, hrawT, hdcal⟩ := s.withWritten_raw t hi
  exact ⟨(congrArg State.rawH hw).trans hrawH, (congrArg State.rawT hw).trans hrawT, (congrArg State.dcal hw).trans hdcal⟩

end Sys2Proof.Machine
end

section
/-!
PROOFS. STATUS and the address byte bit by bit (10_state.md R34, 30_encoding.md R117), and the reset state's registers
(10_state.md R32, R41).
-/

namespace Sys2Proof.Machine

/-! ### STATUS -/

theorem outcomeCode_getElem (o : AckOutcome) {i : Nat} (hk : 2 ≤ i) (hi : i < 32) : (outcomeCode o)[i] = false :=
  getElem_eq_false_of_toNat_lt (by cases o <;> decide) hk hi

theorem errorCode_getElem (c : Option ErrorCode) {i : Nat} (hk : 3 ≤ i) (hi : i < 32) : (errorCode c)[i] = false := by
  refine getElem_eq_false_of_toNat_lt ?_ hk hi
  cases c with
  | none => decide
  | some c => cases c <;> decide

theorem ahtResultCode_getElem (r : AhtResult) {i : Nat} (hk : 3 ≤ i) (hi : i < 32) : (ahtResultCode r)[i] = false :=
  getElem_eq_false_of_toNat_lt (by cases r <;> decide) hk hi

/-- STATUS.OUTCOME (R34). -/
theorem statusWord_outcome (s : State) : (statusWord s).extractLsb' 0 2 = (outcomeCode s.outcome).extractLsb' 0 2 := by
  refine BitVec.eq_of_getElem_eq fun i hi => ?_
  interval_cases i <;> simp [statusWord]

/-- STATUS.COUNT (R34, R37). -/
theorem statusWord_count (s : State) : (statusWord s).extractLsb' 4 4 = s.count := by
  refine BitVec.eq_of_getElem_eq fun i hi => ?_
  interval_cases i <;> simp [statusWord, outcomeCode_getElem]

/-- STATUS.ERR (R34, R38). -/
theorem statusWord_err (s : State) : (statusWord s).extractLsb' 8 3 = (errorCode s.err).extractLsb' 0 3 := by
  refine BitVec.eq_of_getElem_eq fun i hi => ?_
  interval_cases i <;> simp [statusWord, outcomeCode_getElem]

/-- STATUS.AHT_RESULT (R34, R39). -/
theorem statusWord_ahtResult (s : State) :
    (statusWord s).extractLsb' 12 3 = (ahtResultCode s.ahtResult).extractLsb' 0 3 := by
  refine BitVec.eq_of_getElem_eq fun i hi => ?_
  interval_cases i <;> simp [statusWord, outcomeCode_getElem, errorCode_getElem]

/-- STATUS's BUS_OPEN and DCAL (R34, R36, R40). -/
theorem statusWord_flags (s : State) : (statusWord s).getLsbD 2 = s.busOpen ∧ (statusWord s).getLsbD 16 = s.dcal := by
  simp [statusWord, outcomeCode_getElem, errorCode_getElem, ahtResultCode_getElem]

/-- The reserved bits of STATUS (R34). -/
theorem statusWord_reserved (s : State) :
    (statusWord s).getLsbD 3 = false ∧ (statusWord s).getLsbD 11 = false ∧ (statusWord s).getLsbD 15 = false ∧
      (statusWord s).extractLsb' 17 15 = 0 := by
  refine ⟨?_, ?_, ?_, BitVec.eq_of_getElem_eq fun i hi => ?_⟩
  · simp [statusWord, outcomeCode_getElem]
  · simp [statusWord, outcomeCode_getElem, errorCode_getElem]
  · simp [statusWord, outcomeCode_getElem, errorCode_getElem, ahtResultCode_getElem]
  · interval_cases i <;> simp [statusWord, outcomeCode_getElem, errorCode_getElem, ahtResultCode_getElem]

/-- Settles O7: each field is the low bits of its code, and the codes are the ones listed. -/
theorem statusShowsItsFields : Obligations.StatusShowsItsFields := by
  unfold Obligations.StatusShowsItsFields
  intro s
  obtain ⟨hopen, hdcal⟩ := statusWord_flags s
  obtain ⟨h3, h11, h15, hhigh⟩ := statusWord_reserved s
  refine ⟨(statusWord_outcome s).trans ?_, hopen, h3, statusWord_count s, (statusWord_err s).trans ?_, h11,
    (statusWord_ahtResult s).trans ?_, h15, hdcal, hhigh⟩
  · cases s.outcome <;> rfl
  · rcases s.err with _ | c
    · rfl
    · cases c <;> rfl
  · cases s.ahtResult <;> rfl

/-! ### The address byte -/

theorem addressByte_address (a : BitVec 7) (dir : Direction) : (addressByte a dir).extractLsb' 1 7 = a := by
  refine BitVec.eq_of_getElem_eq fun i hi => ?_
  interval_cases i <;> cases dir <;> simp [addressByte, Direction.bit]

theorem addressByte_direction (a : BitVec 7) (dir : Direction) :
    (addressByte a dir).getLsbD 0 = dir.bit.getLsbD 0 := by
  simp [addressByte]

/-- Settles O21: the two fields for any address, and the slave's two bytes computed. -/
theorem addressByteHoldsAddressAndDirection : Obligations.AddressByteHoldsAddressAndDirection := by
  unfold Obligations.AddressByteHoldsAddressAndDirection
  exact ⟨fun a => ⟨addressByte_address a .write, addressByte_direction a .write, addressByte_address a .read,
    addressByte_direction a .read⟩, rfl, rfl⟩

/-! ### The reset state -/

/-- CONFIG after reset shows AVAIL in bit 1 and ENDPOINT in bit 2 (R41, R320). -/
theorem configWord_resetWith (p : Params) : configWord (State.resetWith p) =
    (if p.busAvailable then 2 else 0) + (if p.endpoint = .external then 4 else 0) := by
  rw [configWord, State.resetWith_busEn, State.resetWith_params]
  cases p.busAvailable <;> cases p.endpoint <;> rfl

/-- Settles O43: the reset registers read 0 but for CONFIG, which shows the two parameters. -/
theorem resetStateHasTheResetValues : Obligations.ResetStateHasTheResetValues := by
  unfold Obligations.ResetStateHasTheResetValues
  exact ⟨fun p => ⟨fun r hr => regValue_resetWith p hr, configWord_resetWith p, State.resetWith_log p,
    State.resetWith_errorRecord p⟩, rfl⟩

end Sys2Proof.Machine
end

section
/-!
PROOFS. The emulator's rows of the opcode table (44_slave_emulator.md R242 to R252): what each does to the emulator, and that
the bus command carrying its last byte does the same.
-/

namespace Sys2Proof.Machine

/-! ### Delivery to the emulator -/

theorem State.feedEmulator_emulator {s : State} (bs : List Byte) (he : s.params.endpoint = .emulator) :
    s.feedEmulator bs = { s with emu := s.emu.onWrites bs } := by
  simp only [State.feedEmulator, he]

theorem State.feedEmulator_external {s : State} (bs : List Byte) (he : s.params.endpoint = .external) :
    s.feedEmulator bs = s := by
  simp only [State.feedEmulator, he]

/-- Bytes outside an address phase and outside ReceivingCommand are ignored (R246). -/
theorem Emulator.onWrites_ignored {e : Emulator} (bs : List Byte) (ha : e.awaitAddr = false)
    (hs : e.st ≠ .receivingCommand) : e.onWrites bs = e := by
  induction bs with
  | nil => rfl
  | cons b bs ih => rw [Emulator.onWrites_cons, Emulator.onWrite_ignored b ha hs, ih]

theorem State.feedEmulator_ignored {s : State} (bs : List Byte) (ha : s.emu.awaitAddr = false)
    (hs : s.emu.st ≠ .receivingCommand) : s.feedEmulator bs = s := by
  cases he : s.params.endpoint with
  | emulator => rw [State.feedEmulator_emulator bs he, Emulator.onWrites_ignored bs ha hs]
  | external => exact State.feedEmulator_external bs he

/-! ### The four rows -/

theorem exec_emuAddrW (s : State) : exec .emuAddrW s = .next (s.feedEmulator [addrW]) := rfl
theorem exec_emuAddrR (s : State) : exec .emuAddrR s = .next (s.feedEmulator [addrR]) := rfl
theorem exec_emuCal (s : State) : exec .emuCal s = .next (s.feedEmulator calCmd) := rfl
theorem exec_emuTrig (s : State) : exec .emuTrig s = .next (s.feedEmulator trigCmd) := rfl

/-- Settles O36: the byte is the emulator's own address byte, or an ignored data byte, or reaches no emulator. -/
theorem emulatorAddressRowsOpenATransaction : Obligations.EmulatorAddressRowsOpenATransaction := by
  unfold Obligations.EmulatorAddressRowsOpenATransaction
  refine fun s => ⟨fun he ha => ?_, fun _ ha hs => ?_, fun he => ?_⟩ <;> rw [exec_emuAddrW, exec_emuAddrR]
  · rw [State.feedEmulator_emulator _ he, State.feedEmulator_emulator _ he, Emulator.onWrites_cons,
      Emulator.onWrites_cons, Emulator.onWrite_address _ ha, Emulator.onWrite_address _ ha]
    exact ⟨rfl, rfl⟩
  · rw [State.feedEmulator_ignored _ ha hs, State.feedEmulator_ignored _ ha hs]
    exact ⟨rfl, rfl⟩
  · rw [State.feedEmulator_external _ he, State.feedEmulator_external _ he]
    exact ⟨rfl, rfl⟩

/-- Settles O37: the frame is a whole command, or ignored data bytes, or reaches no emulator. -/
theorem emulatorFrameRowsSetTheSensorFlags : Obligations.EmulatorFrameRowsSetTheSensorFlags := by
  unfold Obligations.EmulatorFrameRowsSetTheSensorFlags
  refine fun s => ⟨fun he ha hs hc => ?_, fun _ ha hs => ?_, fun he => ?_⟩ <;> rw [exec_emuCal, exec_emuTrig]
  · rw [State.feedEmulator_emulator _ he, State.feedEmulator_emulator _ he, calCmd, trigCmd,
      Emulator.onWrites_wholeCommand _ _ _ ha hs hc, Emulator.onWrites_wholeCommand _ _ _ ha hs hc]
    constructor <;> simp [Emulator.withCommand]
  · rw [State.feedEmulator_ignored _ ha hs, State.feedEmulator_ignored _ ha hs]
    exact ⟨rfl, rfl⟩
  · rw [State.feedEmulator_external _ he, State.feedEmulator_external _ he]
    exact ⟨rfl, rfl⟩

/-! ### The bus command that carries a row -/

/-- An address row is the delivery of the address byte it stands for (R122). -/
theorem exec_of_decodeAddress (s : State) {b : Byte} {i : Instr} (h : decode (.addr8 b) = .ok i) :
    exec i s = .next (s.feedEmulator [b]) := by
  have henc := encode_of_decode h
  cases i with
  | emuAddrW | emuAddrR =>
    cases henc
    rfl
  | _ => cases henc

/-- A frame row is the delivery of the three bytes it stands for (R119). -/
theorem exec_of_decodeFrame (s : State) {w : BitVec 24} {i : Instr} (h : decode (.cmd24 w) = .ok i) :
    exec i s = .next (s.feedEmulator (frameBytes w)) := by
  have henc := encode_of_decode h
  cases i with
  | emuCal | emuTrig =>
    cases henc
    rfl
  | _ => cases henc

theorem frameBytes_frameValue (b₀ b₁ b₂ : Byte) : frameBytes (frameValue [b₀, b₁, b₂]) = [b₀, b₁, b₂] := by
  simp only [frameBytes, List.cons.injEq, and_true]
  refine ⟨?_, ?_, ?_⟩ <;> refine BitVec.eq_of_getElem_eq fun i hi => ?_
  all_goals interval_cases i <;> simp [frameValue, bitField]

/-- A host's WRB with the emulator as endpoint gives it the byte (R152, R162). -/
theorem step_wrb_emu {s : State} {b : Byte} {rest : List HostAction} (hrun : s.hung = false) (hb : s.busEn = true)
    (ho : s.busOpen = true) (he : s.params.endpoint = .emulator)
    (hs : s.host = .regWrite 0x00 (0x30000000 ||| b.setWidth 32) :: rest) :
    ∃ t, step s = .next t ∧ t.emu = (s.emu.onWrite b).2 := by
  have hexec : step s = exec (.wrb b) { s with host := rest } :=
    (step_cons hrun hs).trans (regWrite_of_decode _ (decode_commandWord_wrb b))
  exact ⟨_, hexec.trans (exec_wrb_passed (s := { s with host := rest }) hb ho (State.busWrite_emulator b he)), rfl⟩

/-- The third byte of a command does what the whole command does to an emulator that has none of it yet (R245, R250). -/
theorem Emulator.onWrite_third_eq_onWrites {e : Emulator} (b : Byte) (ha : e.awaitAddr = false)
    (hs : e.st = .receivingCommand) (hc : e.cmdCnt = 2) :
    (e.onWrite b).2 = Emulator.onWrites { e with cmdCnt := 0 } [e.cmdBuf[0], e.cmdBuf[1], b] := by
  have hbuf : e.cmdBuf.set 2 b = #v[e.cmdBuf[0], e.cmdBuf[1], b] :=
    Vector.ext fun i hi => by interval_cases i <;> simp
  rw [Emulator.onWrites_wholeCommand (e := { e with cmdCnt := 0 }) _ _ _ ha hs rfl, Emulator.onWrite_commandByte b ha hs,
    Emulator.onCommandByte_third b hc, hbuf]
  rfl

/-- Settles O45: the step gives the emulator the row's last byte, and the row gives it the row's bytes. -/
theorem stepRunsTheEmulatorRow : Obligations.StepRunsTheEmulatorRow := by
  unfold Obligations.StepRunsTheEmulatorRow
  intro s b i rest hrun hb ho he hs
  obtain ⟨t, ht, hemu⟩ := step_wrb_emu hrun hb ho he hs
  refine ⟨fun _ hd => ⟨t, _, ht, exec_of_decodeAddress s hd, ?_⟩,
    fun ha hst hc hd => ⟨t, _, ht, exec_of_decodeFrame _ hd, ?_⟩⟩
  · rw [hemu, State.feedEmulator_emulator _ he]
    rfl
  · rw [hemu, frameBytes_frameValue, State.feedEmulator_emulator _ (by exact he)]
    exact Emulator.onWrite_third_eq_onWrites b ha hst hc

end Sys2Proof.Machine
end
